-- ==== Sys2Proof/Word.lean ====
section
/-! DEFINITION. The words of the block: bytes, 16-bit registers and values, the 43-bit command word (R5, R45). -/

namespace Sys2Proof

/-- One byte of a frame; `W_SLAVE` = 8 (R5). -/
abbrev Byte := BitVec 8

/-- A register address, a register value, a count or a CRC; `W_REG` = 16 (R5). -/
abbrev Word16 := BitVec 16

/-- A command word on the command port; `W_CMD` = 43 (R5, R45). -/
abbrev CmdWord := BitVec 43

end Sys2Proof
end

