-- ==== Sys2Proof/Config.lean ====
section
/-! DEFINITION. The block's implementation parameters (R5) and the values the spec leaves unspecified (93 U1, R80). -/

namespace Sys2Proof.Config

/-- `FC_RH` (R5). -/
def fcRh : Byte := 0x03#8
/-- `FC_WS` (R5). -/
def fcWs : Byte := 0x06#8
/-- `FC_WM` (R5). -/
def fcWm : Byte := 0x10#8
/-- `FC_ID` (R5). -/
def fcId : Byte := 0x11#8
/-- `CRC_POLY` (R5, R70). -/
def crcPoly : Word16 := 0xA001#16
/-- `CRC_INIT` (R5, R70). -/
def crcInit : Word16 := 0xFFFF#16
/-- `MAX_RH`, the largest count of a read (R5). -/
def maxRh : Nat := 125
/-- `MAX_WM`, the largest number of values of a multiple write (R5). -/
def maxWm : Nat := 123
/-- `MAX_ADU`, the depth of `RXBUF` in bytes (R5). -/
def maxAdu : Nat := 256
/-- `MIN_FRAME`, the shortest byte sequence on which a CRC is checked (R5). -/
def minFrame : Nat := 4
/-- `N_VBUF`, the depth of the value buffer (R5). -/
def nVbuf : Nat := 123

/-- FREE VALUE (log 2): what `VBUF[i]` holds while nothing has written it since the `epoch`-th `RESET`. The spec
leaves it unspecified (R18, R24, 93 U1), so no proof can see it. -/
opaque vbufPowerUp (epoch i : Nat) : Word16

/-- FREE VALUE (log 2): what `RXBUF[i]` holds while nothing has written it since the `epoch`-th `RESET` (R20, R24, 93 U1). -/
opaque rxbufPowerUp (epoch i : Nat) : Byte

/-- FREE VALUE (log 4): what the `k`-th accepted `ENC.ID` leaves in `CMD_ADDR`; R80 calls it immaterial. -/
opaque idLatchAddr (k : Nat) : Word16

/-- FREE VALUE (log 4): what the `k`-th accepted `ENC.ID` leaves in `CMD_ARG`; R80 calls it immaterial. -/
opaque idLatchArg (k : Nat) : Word16

end Sys2Proof.Config
end

