-- ==== Sys2Proof/Syntax.lean ====
section
/-! DEFINITION. The instructions: one constructor per row of `spec/opcode_table.json` (R46, R49), and the assembler
line of R66. -/

namespace Sys2Proof

/-- The rows of the opcode table. A command carries the fields it uses and no other (R46, R47). A request frame row is
recognised by the function byte the encoder emits, a response frame row by the function byte the parser reads (R49);
the rest of such a frame stands in the state, so the row has no operand but the free low bits of `RSP.EXC`. -/
inductive Instr where
  /-- `ENC.RH slave, first_reg, count` (R81). -/
  | encRh (slave : Byte) (firstReg count : Word16)
  /-- `ENC.WS slave, reg, value` (R82). -/
  | encWs (slave : Byte) (reg value : Word16)
  /-- `ENC.WM slave, first_reg, n` (R83). -/
  | encWm (slave : Byte) (firstReg n : Word16)
  /-- `ENC.ID slave` (R84). -/
  | encId (slave : Byte)
  /-- `DEC.ARM expected_slave, expected_function` (R100). -/
  | decArm (expSlave expFunc : Byte)
  /-- `DEC.END` (R102). -/
  | decEnd
  /-- `VBUF.WR index, value` (R85). -/
  | vbufWr (index value : Word16)
  /-- `CMD.RSV`, the reserved command code 7 (R125). -/
  | cmdRsv
  /-- `REQ.RH`, the Read Holding Registers request frame (R52). -/
  | reqRh
  /-- `REQ.WS`, the Write Single Register request frame (R53). -/
  | reqWs
  /-- `REQ.WM`, the Write Multiple Registers request frame (R54). -/
  | reqWm
  /-- `REQ.ID`, the Report Slave ID request frame (R55). -/
  | reqId
  /-- `RSP.RH`, the Read Holding Registers response frame (R58). -/
  | rspRh
  /-- `RSP.WS`, the Write Single Register response frame (R59). -/
  | rspWs
  /-- `RSP.WM`, the Write Multiple Registers response frame (R60). -/
  | rspWm
  /-- `RSP.ID`, the Report Slave ID response frame (R61). -/
  | rspId
  /-- `RSP.EXC`, the exception response frame, with its function byte (R62). -/
  | rspExc (fn : Byte)
  deriving DecidableEq, Repr

/-- The mnemonics of the textual syntax (R66). -/
inductive Mnemonic where
  | encRh | encWs | encWm | encId | decArm | decEnd | vbufWr | cmdRsv
  deriving DecidableEq, Repr

/-- A line of the textual syntax: a mnemonic and the numbers written after it (R66). -/
structure AsmLine where
  mnemonic : Mnemonic
  operands : List Nat
  deriving DecidableEq, Repr

end Sys2Proof
end

