-- ==== Sys2Proof/WellFormed.lean ====
section
/-! DEFINITION. Which instructions and which assembler lines are well formed. -/

namespace Sys2Proof

/-- The widths of a mnemonic's operands, in the order R66 writes them. -/
def Mnemonic.operandWidths : Mnemonic → List Nat
  | .encRh => [8, 16, 16]
  | .encWs => [8, 16, 16]
  | .encWm => [8, 16, 16]
  | .encId => [8]
  | .decArm => [8, 8]
  | .decEnd => []
  | .vbufWr => [16, 16]
  | .cmdRsv => []

/-- `operands` are as many as `widths`, and each fits its width. -/
def operandsFit : List Nat → List Nat → Bool
  | [], [] => true
  | w :: ws, v :: vs => decide (v < 2 ^ w) && operandsFit ws vs
  | _, _ => false

/-- An assembler line is well formed when it has the operands R66 gives its mnemonic, each in its field's width (R45). -/
def AsmLine.wellFormed (l : AsmLine) : Bool :=
  operandsFit l.mnemonic.operandWidths l.operands

/-- An instruction is well formed when its operands fit its row of the opcode table. The field widths of a command are
in the types; counts and indexes out of range are errors the block reports, not illegal encodings (R65). The function
byte of `RSP.EXC` has bit 7 set (R49, R62). -/
def Instr.wellFormed : Instr → Bool
  | .encRh _ _ _ => true
  | .encWs _ _ _ => true
  | .encWm _ _ _ => true
  | .encId _ => true
  | .decArm _ _ => true
  | .decEnd => true
  | .vbufWr _ _ => true
  | .cmdRsv => true
  | .reqRh => true
  | .reqWs => true
  | .reqWm => true
  | .reqId => true
  | .rspRh => true
  | .rspWs => true
  | .rspWm => true
  | .rspId => true
  | .rspExc fn => fn.getLsbD 7

end Sys2Proof
end

