-- ==== Sys2Proof/Decode.lean ====
section
/-! DEFINITION. The decoder of command words and function bytes, then the encoder and the assembler (R45 to R49, R66). -/

namespace Sys2Proof

/-- Where an encoded instruction stands, with its bits: a command word at the command port, the function byte of a
frame on the transmit stream, or the function byte of a received frame. The same byte 0x03 is `REQ.RH` on the one
stream and `RSP.RH` on the other (R49). -/
inductive Wire where
  | command (w : CmdWord)
  | request (fn : Byte)
  | response (fn : Byte)
  deriving DecidableEq, Repr

/-- Why a word has no instruction. -/
inductive DecodeReject where
  /-- The encoder builds no frame with this function byte (R64). -/
  | noRequestFormat (fn : Byte)
  /-- The parser has no format for this function byte (R49, R64). -/
  | noResponseFormat (fn : Byte)
  deriving DecidableEq, Repr

/-- `code`, bits 42:40 (R45). -/
def cmdCode (w : CmdWord) : BitVec 3 := w.extractLsb' 40 3
/-- `slave`, bits 39:32 (R45). -/
def cmdSlave (w : CmdWord) : Byte := w.extractLsb' 32 8
/-- `addr`, bits 31:16 (R45). -/
def cmdAddr (w : CmdWord) : Word16 := w.extractLsb' 16 16
/-- `arg`, bits 15:0 (R45). -/
def cmdArg (w : CmdWord) : Word16 := w.extractLsb' 0 16
/-- `arg[7:0]`, the expected function of `DEC.ARM` (R45, R46). -/
def cmdFunc (w : CmdWord) : Byte := w.extractLsb' 0 8

/-- The eight command codes (R46). Every code is defined, so every word is a command (R65). -/
def decodeCommand (w : CmdWord) : Instr :=
  if cmdCode w = 0#3 then .encRh (cmdSlave w) (cmdAddr w) (cmdArg w)
  else if cmdCode w = 1#3 then .encWs (cmdSlave w) (cmdAddr w) (cmdArg w)
  else if cmdCode w = 2#3 then .encWm (cmdSlave w) (cmdAddr w) (cmdArg w)
  else if cmdCode w = 3#3 then .encId (cmdSlave w)
  else if cmdCode w = 4#3 then .decArm (cmdSlave w) (cmdFunc w)
  else if cmdCode w = 5#3 then .decEnd
  else if cmdCode w = 6#3 then .vbufWr (cmdAddr w) (cmdArg w)
  else .cmdRsv

/-- The function byte of a request frame (R49). -/
def decodeRequest (fn : Byte) : Except DecodeReject Instr :=
  if fn = Config.fcRh then .ok .reqRh
  else if fn = Config.fcWs then .ok .reqWs
  else if fn = Config.fcWm then .ok .reqWm
  else if fn = Config.fcId then .ok .reqId
  else .error (.noRequestFormat fn)

/-- The function byte of a response frame (R49): bit 7 set is an exception response, whatever the other bits. -/
def decodeResponse (fn : Byte) : Except DecodeReject Instr :=
  if fn.getLsbD 7 then .ok (.rspExc fn)
  else if fn = Config.fcRh then .ok .rspRh
  else if fn = Config.fcWs then .ok .rspWs
  else if fn = Config.fcWm then .ok .rspWm
  else if fn = Config.fcId then .ok .rspId
  else .error (.noResponseFormat fn)

/-- The decoder: total, and it rejects by name. -/
def decode : Wire → Except DecodeReject Instr
  | .command w => .ok (decodeCommand w)
  | .request fn => decodeRequest fn
  | .response fn => decodeResponse fn

/-- A command word from its four fields (R45). -/
def packCommand (code : BitVec 3) (slave : Byte) (addr arg : Word16) : CmdWord :=
  code ++ slave ++ addr ++ arg

/-- The encoder. The fields a command ignores assemble to 0 (R66). -/
def encode : Instr → Wire
  | .encRh slave firstReg count => .command (packCommand 0#3 slave firstReg count)
  | .encWs slave reg value => .command (packCommand 1#3 slave reg value)
  | .encWm slave firstReg n => .command (packCommand 2#3 slave firstReg n)
  | .encId slave => .command (packCommand 3#3 slave 0#16 0#16)
  | .decArm es ef => .command (packCommand 4#3 es 0#16 (ef.setWidth 16))
  | .decEnd => .command (packCommand 5#3 0#8 0#16 0#16)
  | .vbufWr index value => .command (packCommand 6#3 0#8 index value)
  | .cmdRsv => .command (packCommand 7#3 0#8 0#16 0#16)
  | .reqRh => .request Config.fcRh
  | .reqWs => .request Config.fcWs
  | .reqWm => .request Config.fcWm
  | .reqId => .request Config.fcId
  | .rspRh => .response Config.fcRh
  | .rspWs => .response Config.fcWs
  | .rspWm => .response Config.fcWm
  | .rspId => .response Config.fcId
  | .rspExc fn => .response fn

/-- The assembler (R66): `none` where the line is not well formed. -/
def assemble (l : AsmLine) : Option CmdWord :=
  if l.wellFormed then
    match l.mnemonic, l.operands with
    | .encRh, [s, a, c] => some (packCommand 0#3 (.ofNat 8 s) (.ofNat 16 a) (.ofNat 16 c))
    | .encWs, [s, a, v] => some (packCommand 1#3 (.ofNat 8 s) (.ofNat 16 a) (.ofNat 16 v))
    | .encWm, [s, a, n] => some (packCommand 2#3 (.ofNat 8 s) (.ofNat 16 a) (.ofNat 16 n))
    | .encId, [s] => some (packCommand 3#3 (.ofNat 8 s) 0#16 0#16)
    | .decArm, [s, f] => some (packCommand 4#3 (.ofNat 8 s) 0#16 (.ofNat 16 f))
    | .decEnd, [] => some (packCommand 5#3 0#8 0#16 0#16)
    | .vbufWr, [i, v] => some (packCommand 6#3 0#8 (.ofNat 16 i) (.ofNat 16 v))
    | .cmdRsv, [] => some (packCommand 7#3 0#8 0#16 0#16)
    | _, _ => none
  else none

/-- The spelling of each mnemonic (R66). -/
def Mnemonic.spelling : Mnemonic → List Char
  | .encRh => ['E', 'N', 'C', '.', 'R', 'H']
  | .encWs => ['E', 'N', 'C', '.', 'W', 'S']
  | .encWm => ['E', 'N', 'C', '.', 'W', 'M']
  | .encId => ['E', 'N', 'C', '.', 'I', 'D']
  | .decArm => ['D', 'E', 'C', '.', 'A', 'R', 'M']
  | .decEnd => ['D', 'E', 'C', '.', 'E', 'N', 'D']
  | .vbufWr => ['V', 'B', 'U', 'F', '.', 'W', 'R']
  | .cmdRsv => ['C', 'M', 'D', '.', 'R', 'S', 'V']

/-- The value of a digit, decimal or hexadecimal (R66). -/
def digitValue (c : Char) : Option Nat :=
  let n := c.toNat
  if 48 ≤ n ∧ n ≤ 57 then some (n - 48)
  else if 65 ≤ n ∧ n ≤ 70 then some (n - 55)
  else if 97 ≤ n ∧ n ≤ 102 then some (n - 87)
  else none

/-- The number that digits of this base continue. -/
def readDigits (base : Nat) : Nat → List Char → Option Nat
  | acc, [] => some acc
  | acc, c :: cs =>
    match digitValue c with
    | some d => if d < base then readDigits base (acc * base + d) cs else none
    | none => none

/-- A number, decimal or `0x` hexadecimal (R66). -/
def readNumber : List Char → Option Nat
  | [] => none
  | '0' :: 'x' :: c :: cs => readDigits 16 0 (c :: cs)
  | c :: cs => readDigits 10 0 (c :: cs)

/-- The text without spaces at its two ends. -/
def trimSpaces (cs : List Char) : List Char :=
  (cs.dropWhile (· == ' ')).reverse.dropWhile (· == ' ') |>.reverse

/-- The parts of a text between commas. -/
def splitCommas : List Char → List (List Char)
  | [] => [[]]
  | c :: cs =>
    if c = ',' then [] :: splitCommas cs
    else
      match splitCommas cs with
      | [] => [[c]]
      | p :: ps => (c :: p) :: ps

/-- A line of the textual syntax: the mnemonic, then the numbers separated by commas (R66). -/
def readLine (text : List Char) : Option AsmLine :=
  let cs := trimSpaces text
  let word := cs.takeWhile (· != ' ')
  let rest := trimSpaces (cs.drop word.length)
  match [Mnemonic.encRh, .encWs, .encWm, .encId, .decArm, .decEnd, .vbufWr, .cmdRsv].find? (·.spelling == word) with
  | some m =>
    if rest.isEmpty then some ⟨m, []⟩
    else ((splitCommas rest).mapM (fun p => readNumber (trimSpaces p))).map (AsmLine.mk m)
  | none => none

/-- The assembler on text (R66). -/
def assembleText (text : String) : Option CmdWord :=
  (readLine text.toList).bind assemble

/-- The instruction read from a word of the opcode table. The eight command rows are 43 bits wide, six whole bytes; the
nine frame rows give the function byte alone, and the block decodes function bytes only on the receive side, so an
8-bit word is read as the function byte of a received frame (log 6). -/
def decodeTableWord (nbits w : Nat) : Option Instr :=
  if nbits ≤ 8 then
    if w < 2 ^ 8 then (decode (.response (.ofNat 8 w))).toOption else none
  else
    if w < 2 ^ 43 then (decode (.command (.ofNat 43 w))).toOption else none

end Sys2Proof
end

