-- ==== Sys2Proof/Machine/State.lean ====
section
/-! DEFINITION. The state of the block (R11 to R24), the inputs presented to it (R10, R23), the model's own marks, and
the state after reset. -/

namespace Sys2Proof.Machine

/-- `CMD_OP`, 2 bits: which request is being sent (R11). -/
inductive ReqOp where
  | rh | ws | wm | id
  deriving DecidableEq, Repr

/-- `ENC_ST`, 1 bit (R13). -/
inductive EncSt where
  | idle | send
  deriving DecidableEq, Repr

/-- `ENC_ERR`, 2 bits; the code 3 is never written and has no constructor (R14, 93 U6). -/
inductive EncErr where
  | none | badCount | badIndex
  deriving DecidableEq, Repr

/-- `DEC_ST`, 2 bits; the code 3 is never taken and has no constructor (R16, 93 U6). -/
inductive DecSt where
  | idle | recv | done
  deriving DecidableEq, Repr

/-- `RES_STATUS`, 3 bits; the codes 6 and 7 are never taken and have no constructor (R17, 93 U6). -/
inductive ResStatus where
  | none | ok | crcMismatch | slaveMismatch | malformed | exceptionResponse
  deriving DecidableEq, Repr

/-- One entry of the transmit trace: the byte and its `tx_last` tag (R19). -/
structure TxByte where
  byte : Byte
  last : Bool
  deriving DecidableEq, Repr

/-- One event of the model's schedule: which agent takes the next step, or which input the environment drives (R10). -/
inductive Turn where
  /-- The host's command at the command port is looked at. -/
  | host
  /-- The encoder takes `ENC.EMIT` if it is enabled. -/
  | enc
  /-- The link's receive side delivers its next byte. -/
  | link
  /-- The host takes back the word it presents, if the port does not hold it (R150, R156; log 7). -/
  | withdraw
  /-- The link drives `tx_ready` to this level. -/
  | setTxReady (level : Bool)
  /-- The `rst` input is raised: the step after this one is `RESET`. -/
  | raiseRst
  deriving DecidableEq, Repr

/-- An entry of the model's fault log: the faults of R130 and R131, which the block keeps only the latest of (R137),
and the host-program errors the spec tells a model to record (93 U1, U3, U4). -/
inductive FaultRecord where
  /-- `DEC.END` answered a result that is not `Ok` (R130). -/
  | parser (status : ResStatus) (exc : Byte)
  /-- An encoder command or `VBUF.WR` reported an error (R131). -/
  | encoder (err : EncErr)
  /-- `CMD.RSV` was accepted (93 U4). -/
  | reservedCommand
  /-- `DEC.END` was presented outside `RECV` and is held (93 U3). -/
  | decEndHeld
  /-- `ENC.EMIT` read `VBUF[i]`, which nothing has written since the last `RESET` (93 U1, R153). -/
  | vbufUnwritten (i : Nat)
  deriving DecidableEq, Repr

/-- An indexed store of the block, as (index, entry) pairs. An index is listed exactly when it has been written since
the last `RESET` (93 U1). -/
abbrev Memory (w : Nat) := List (Nat × BitVec w)

/-- The state. R24 lists the block's state; R23 lists what the environment presents; the rest is the model's own. -/
structure State where
  /-- `ENC_ST`, 1 bit (R13). -/
  encSt : EncSt
  /-- `TX_IDX`, 8 bits: index of the next frame byte (R13). -/
  txIdx : BitVec 8
  /-- `TX_LEN`, 8 bits: length of the frame being sent (R13). -/
  txLen : BitVec 8
  /-- `TX_CRC`, 16 bits: CRC of the body bytes emitted so far (R21). -/
  txCrc : Word16
  /-- `ENC_ERR`, 2 bits (R14). -/
  encErr : EncErr
  /-- `CMD_OP`, 2 bits (R11). -/
  cmdOp : ReqOp
  /-- `CMD_SLAVE`, 8 bits (R11). -/
  cmdSlave : Byte
  /-- `CMD_ADDR`, 16 bits (R11). -/
  cmdAddr : Word16
  /-- `CMD_ARG`, 16 bits (R11). -/
  cmdArg : Word16
  /-- `VBUF[0..122]`, 123 entries of 16 bits (R18). -/
  vbuf : Memory 16
  /-- `TXOUT`, the transmit trace, oldest byte first (R19). -/
  txOut : List TxByte
  /-- `DEC_ST`, 2 bits (R16). -/
  decSt : DecSt
  /-- `EXP_SLAVE`, 8 bits (R11). -/
  expSlave : Byte
  /-- `EXP_FUNC`, 8 bits (R11). -/
  expFunc : Byte
  /-- `RXBUF[0..255]`, 256 entries of 8 bits (R20). -/
  rxbuf : Memory 8
  /-- `RX_LEN`, 9 bits, 0 to 256 (R20). -/
  rxLen : Fin 257
  /-- `RX_OVF`, 1 bit (R14). -/
  rxOvf : Bool
  /-- `RES_STATUS`, 3 bits (R17). -/
  resStatus : ResStatus
  /-- `RES_EXC`, 8 bits (R17). -/
  resExc : Byte
  /-- `ILLCMD`, 1 bit, sticky (R14). -/
  illCmd : Bool
  /-- Input `rst`: while it is set the next step is `RESET` (R10, R150). -/
  rst : Bool
  /-- Input `tx_ready` (R10). -/
  txReady : Bool
  /-- Inputs `cmd_word` and `cmd_valid`: the words the host has still to issue. The first stands at the command port
  until it is accepted; `cmd_valid` is that there is one (R10, R156). -/
  cmdQ : List CmdWord
  /-- Inputs `rx_byte` and `rx_valid`: the bytes the link has still to deliver, first on the wire first (R10). -/
  rxQ : List Byte
  /-- MODEL'S OWN: the word at the command port has been looked at since it was presented and since the last `RESET`,
  and was not accepted, so that it occupies the port (R156; log 7). -/
  portHeld : Bool
  /-- MODEL'S OWN: the schedule, the next event first (R10, R41; log 1). -/
  turns : List Turn
  /-- MODEL'S OWN: how many `RESET` steps there have been; it tells the free values of one power-up of the buffers
  from the next (log 2). -/
  epoch : Nat
  /-- MODEL'S OWN: the counter of the free values `Config.idLatchAddr` and `Config.idLatchArg` (log 4). -/
  freeCount : Nat
  /-- MODEL'S OWN: the written mark of `CMD_OP`, `CMD_SLAVE`, `CMD_ADDR`, `CMD_ARG` (93 U1). -/
  cmdWritten : Bool
  /-- MODEL'S OWN: the written mark of `EXP_SLAVE` and `EXP_FUNC` (93 U1). -/
  expWritten : Bool
  /-- MODEL'S OWN: the fault log, oldest first; nothing reads it (R137, 93 U1, U3, U4; log 5). -/
  faultLog : List FaultRecord
  deriving DecidableEq, Repr

/-- Why the machine stops with a fault. -/
inductive Fault where
  /-- Raised by `REQ.*` (the step `ENC.EMIT`) when `ENC_ST` is `SEND` and `TX_IDX` is not the index of a byte of the
  frame in flight. R25 shows that no run reaches such a state, and 93 U6 says `fault` if it is met. Safe. -/
  | encSequencer
  deriving DecidableEq, Repr

/-- Why an instruction has no meaning in the model. -/
inductive Refusal where
  /-- Raised by `exec` for an instruction of the opcode table that has no meaning yet. Safe. -/
  | notModelled (mnemonic : String)
  deriving DecidableEq, Repr

/-- The state after reset (R24). The registers R24 leaves unspecified, `CMD_OP`, `CMD_SLAVE`, `CMD_ADDR`, `CMD_ARG`,
`EXP_SLAVE` and `EXP_FUNC`, hold the value log 3 names; no entry of `VBUF` or `RXBUF` is written. No input is
presented. -/
def State.reset : State where
  encSt := .idle
  txIdx := 0#8
  txLen := 0#8
  txCrc := 0xFFFF#16
  encErr := .none
  cmdOp := .rh
  cmdSlave := 0#8
  cmdAddr := 0#16
  cmdArg := 0#16
  vbuf := []
  txOut := []
  decSt := .idle
  expSlave := 0#8
  expFunc := 0#8
  rxbuf := []
  rxLen := 0
  rxOvf := false
  resStatus := .none
  resExc := 0#8
  illCmd := false
  rst := false
  txReady := false
  cmdQ := []
  rxQ := []
  portHeld := false
  turns := []
  epoch := 0
  freeCount := 0
  cmdWritten := false
  expWritten := false
  faultLog := []

end Sys2Proof.Machine
end

