-- ==== Sys2Proof/Machine/Ops.lean ====
section
/-! DEFINITION. The named operations over the stores and registers, fault entry and its clearing, and `RESET`. -/

namespace Sys2Proof.Machine

/-- The entry listed at index `a`, if there is one. -/
def Memory.lookup {w : Nat} : Memory w → Nat → Option (BitVec w)
  | [], _ => none
  | (b, u) :: m, a => if b = a then some u else Memory.lookup m a

/-- Write the entry at index `a`, keeping the indices strictly rising. -/
def Memory.write {w : Nat} : Memory w → Nat → BitVec w → Memory w
  | [], a, v => [(a, v)]
  | (b, u) :: m, a, v =>
    if a < b then (a, v) :: (b, u) :: m
    else if a = b then (a, v) :: m
    else (b, u) :: Memory.write m a v

/-- The indices of `m` rise strictly, from `lo` on, and lie below `size`. -/
def Memory.wfFrom {w : Nat} (size : Nat) : Nat → Memory w → Bool
  | _, [] => true
  | lo, (a, _) :: m => decide (lo ≤ a) && decide (a < size) && Memory.wfFrom size (a + 1) m

/-- The canonical form of a store of `size` entries: every index in range, strictly rising (R30; log 2). -/
def Memory.wf {w : Nat} (size : Nat) (m : Memory w) : Bool := Memory.wfFrom size 0 m

/-- `VBUF[i]` (R18); an entry not written since `RESET` is unspecified (93 U1; log 2). -/
def State.vbufRead (s : State) (i : Nat) : Word16 :=
  (Memory.lookup s.vbuf i).getD (Config.vbufPowerUp s.epoch i)

/-- `VBUF[i] <- v` (R18). -/
def State.vbufWrite (s : State) (i : Nat) (v : Word16) : State :=
  { s with vbuf := Memory.write s.vbuf i v }

/-- `RXBUF[i]` (R20); an entry not written since `RESET` is unspecified (93 U1; log 2). -/
def State.rxRead (s : State) (i : Nat) : Byte :=
  (Memory.lookup s.rxbuf i).getD (Config.rxbufPowerUp s.epoch i)

/-- `RXBUF[0..RX_LEN-1]`, the bytes received since the last `DEC.ARM` (R20). -/
def State.rxFrame (s : State) : List Byte :=
  (List.range s.rxLen.val).map s.rxRead

/-- Store a received byte: `RXBUF[RX_LEN] <- b; RX_LEN <- RX_LEN + 1`, or `RX_OVF <- 1` when 256 bytes are in (R101). -/
def State.rxStore (b : Byte) (s : State) : State :=
  if h : s.rxLen.val < 256 then
    { s with rxbuf := Memory.write s.rxbuf s.rxLen.val b, rxLen := ⟨s.rxLen.val + 1, by omega⟩ }
  else { s with rxOvf := true }

/-- Append a record to the model's fault log (R137; log 5). -/
def State.record (r : FaultRecord) (s : State) : State :=
  { s with faultLog := s.faultLog ++ [r] }

/-- `ENC_ERR <- e` (R14). -/
def State.setEncErr (e : EncErr) (s : State) : State :=
  { s with encErr := e }

/-- Encoder fault entry: `ENC_ERR <- Status` and nothing else (R133). -/
def State.encFault (e : EncErr) (s : State) : State :=
  (s.setEncErr e).record (.encoder e)

/-- The writes of `DEC.END`: `RES_STATUS`, `RES_EXC`, `DEC_ST <- DONE` and nothing else (R102, R133). -/
def State.setResult (st : ResStatus) (exc : Byte) (s : State) : State :=
  { s with resStatus := st, resExc := exc, decSt := .done }

/-- Parser fault entry (R133): `RES_EXC` takes the info of an `ExceptionResponse` and is 0 for every other status. -/
def State.parserFault (st : ResStatus) (info : Byte) (s : State) : State :=
  let exc := if st = .exceptionResponse then info else 0#8
  (s.setResult st exc).record (.parser st exc)

/-- `DEC.END` delivers its verdict: success, or fault entry (R102, R130, R133). -/
def State.deliver (verdict : ResStatus × Byte) (s : State) : State :=
  if verdict.1 = .ok then s.setResult .ok 0#8 else s.parserFault verdict.1 verdict.2

/-- `DEC.ARM` (R100). There is no return from a fault: this is what clears a parser result (R136). -/
def State.arm (es ef : Byte) (s : State) : State :=
  { s with
    expSlave := es, expFunc := ef, expWritten := true, rxLen := 0, rxOvf := false
    resStatus := .none, resExc := 0#8, decSt := .recv }

/-- `RESET` (R150): every register of R24 at its reset value, both buffers unwritten, a frame in flight abandoned. The
bytes already sent stay in `TXOUT` (R151); what the environment presents is not the block's and stays, but for `rst`,
which has been served. A word at the command port is not accepted and no longer occupies the port: it is looked at
afresh (R150), unless the host, which the hold stopped until now (R156), takes it back (log 7). -/
def State.resetStep (s : State) : State :=
  { State.reset with
    txOut := s.txOut, txReady := s.txReady, cmdQ := s.cmdQ, rxQ := s.rxQ, turns := s.turns
    epoch := s.epoch + 1, freeCount := s.freeCount, faultLog := s.faultLog }

end Sys2Proof.Machine
end

