-- ==== Sys2Proof/Machine/Crc.lean ====
section
/-! DEFINITION. The CRC-16 generator and validator (R70 to R74). -/

namespace Sys2Proof.Machine

/-- One of the eight iterations of `crc16_update` (R71). -/
def crcShift (c : Word16) : Word16 :=
  if c.getLsbD 0 then (c >>> 1) ^^^ Config.crcPoly else c >>> 1

/-- `crc16_update(c, b)` (R71). -/
def crc16Update (c : Word16) (b : Byte) : Word16 :=
  crcShift (crcShift (crcShift (crcShift (crcShift (crcShift (crcShift (crcShift (c ^^^ b.setWidth 16))))))))

/-- `crc16(seq)` (R72). -/
def crc16 (bytes : List Byte) : Word16 :=
  bytes.foldl crc16Update Config.crcInit

end Sys2Proof.Machine
end

