-- ==== Sys2Proof/Machine/Operands.lean ====
section
/-! DEFINITION. The operands of frames: byte order, field assembly and the layouts of the request frames (R33, R34,
R50 to R57), and the bytes of a received frame. -/

namespace Sys2Proof.Machine

/-- `hi8(w) = w[15:8]` (R7). -/
def hi8 (w : Word16) : Byte := w.extractLsb' 8 8

/-- `lo8(w) = w[7:0]` (R7). -/
def lo8 (w : Word16) : Byte := w.extractLsb' 0 8

/-- `be16(h, l) = h ∥ l` (R7). -/
def be16 (h l : Byte) : Word16 := h ++ l

/-- A 16-bit field on the wire: high byte first (R33, R50). -/
def be16Bytes (v : Word16) : List Byte := [hi8 v, lo8 v]

/-- The CRC field of a frame with this body: low byte first (R34, R51). -/
def crcField (body : List Byte) : List Byte := [lo8 (crc16 body), hi8 (crc16 body)]

/-- The 2-bit code of `CMD_OP` (R11). -/
def ReqOp.code : ReqOp → BitVec 2
  | .rh => 0#2
  | .ws => 1#2
  | .wm => 2#2
  | .id => 3#2

/-- The function byte of a request (R49). -/
def ReqOp.func : ReqOp → Byte
  | .rh => Config.fcRh
  | .ws => Config.fcWs
  | .wm => Config.fcWm
  | .id => Config.fcId

/-- The request frame row that `CMD_OP` selects (R57). -/
def reqInstr : ReqOp → Instr
  | .rh => .reqRh
  | .ws => .reqWs
  | .wm => .reqWm
  | .id => .reqId

/-- `FrameLen(op, G)` (R56). -/
def frameLen (op : ReqOp) (g : Word16) : Nat :=
  match op with
  | .rh => 8
  | .ws => 8
  | .wm => 9 + 2 * g.toNat
  | .id => 4

/-- `FrameBody(op, S, A, G, VBUF)` (R52 to R55, R57). -/
def frameBody (op : ReqOp) (s : Byte) (a g : Word16) (vbuf : Nat → Word16) : List Byte :=
  match op with
  | .rh => [s, Config.fcRh] ++ be16Bytes a ++ be16Bytes g
  | .ws => [s, Config.fcWs] ++ be16Bytes a ++ be16Bytes g
  | .wm =>
    [s, Config.fcWm] ++ be16Bytes a ++ be16Bytes g ++ [BitVec.ofNat 8 (2 * g.toNat)]
      ++ (List.range g.toNat).flatMap (fun k => be16Bytes (vbuf k))
  | .id => [s, Config.fcId]

/-- `Frame(op, S, A, G, VBUF)`: the body, then its CRC field (R57). -/
def frame (op : ReqOp) (s : Byte) (a g : Word16) (vbuf : Nat → Word16) : List Byte :=
  frameBody op s a g vbuf ++ crcField (frameBody op s a g vbuf)

/-- The body of the frame being sent, read from `CMD_*` and `VBUF` (R57). -/
def State.body (s : State) : List Byte :=
  frameBody s.cmdOp s.cmdSlave s.cmdAddr s.cmdArg s.vbufRead

/-- Byte `i` of a received sequence. No rule reads past its length (R104). -/
def rxByte (r : List Byte) (i : Nat) : Byte := r.getD i 0#8

end Sys2Proof.Machine
end

