-- ==== Sys2Proof/Machine/Flags.lean ====
section
/-! DEFINITION. The flags: `ENC_ERR`, the packing of `STATUS`, the guards of the commands (R14, R15, R46). -/

namespace Sys2Proof.Machine

/-- The 1-bit code of `ENC_ST` (R13). -/
def EncSt.code : EncSt → BitVec 1
  | .idle => 0#1
  | .send => 1#1

/-- The 2-bit code of `ENC_ERR` (R14). -/
def EncErr.code : EncErr → BitVec 2
  | .none => 0#2
  | .badCount => 1#2
  | .badIndex => 2#2

/-- The 2-bit code of `DEC_ST` (R16). -/
def DecSt.code : DecSt → BitVec 2
  | .idle => 0#2
  | .recv => 1#2
  | .done => 2#2

/-- The 3-bit code of `RES_STATUS` (R17). -/
def ResStatus.code : ResStatus → BitVec 3
  | .none => 0#3
  | .ok => 1#3
  | .crcMismatch => 2#3
  | .slaveMismatch => 3#3
  | .malformed => 4#3
  | .exceptionResponse => 5#3

/-- `STATUS` (R15): bit 7 is 0, then `ILLCMD`, `RX_OVF`, `DEC_ST`, `ENC_ERR`, `ENC_ST`. -/
def State.status (s : State) : Byte :=
  0#1 ++ BitVec.ofBool s.illCmd ++ BitVec.ofBool s.rxOvf ++ s.decSt.code ++ s.encErr.code ++ s.encSt.code

/-- The count or number of values is in the range of its request: 1 to 125 for RH, 1 to 123 for WM, anything for WS
and ID (R80). -/
def countOk (op : ReqOp) (arg : Word16) : Bool :=
  match op with
  | .rh => decide (1 ≤ arg.toNat) && decide (arg.toNat ≤ Config.maxRh)
  | .ws => true
  | .wm => decide (1 ≤ arg.toNat) && decide (arg.toNat ≤ Config.maxWm)
  | .id => true

/-- The index of `VBUF.WR` is in range: 0 to 122 (R85). -/
def indexOk (index : Word16) : Bool := decide (index.toNat < Config.nVbuf)

/-- `ENC.EMIT` of a frame of layout `op` is enabled: `ENC_ST = SEND`, `tx_ready`, and `CMD_OP` selects the layout
(R86, R57). -/
def emitReady (op : ReqOp) (s : State) : Bool :=
  decide (s.encSt = .send) && s.txReady && decide (s.cmdOp = op)

end Sys2Proof.Machine
end

