-- ==== Sys2Proof/Machine/Classify.lean ====
section
/-! DEFINITION. The parser's classification of a received byte sequence (R104 to R113) and the selection of a response
frame row. -/

namespace Sys2Proof.Machine

/-- The CRC check of R74: the CRC of all bytes but the last two equals the last two read as a little-endian number. -/
def crcGood (r : List Byte) : Bool :=
  crc16 (r.take (r.length - 2)) == be16 (rxByte r (r.length - 1)) (rxByte r (r.length - 2))

/-- Stage 4, an exception frame: exactly 5 bytes, its code passed through (R108). -/
def verdictExc (r : List Byte) : ResStatus × Byte :=
  if r.length = 5 then (.exceptionResponse, rxByte r 2) else (.malformed, 0#8)

/-- Stage 6 for `EXP_FUNC = 0x03` (R110). -/
def verdictRh (r : List Byte) : ResStatus × Byte :=
  if 5 ≤ r.length ∧ (rxByte r 2).getLsbD 0 = false ∧ 2 ≤ (rxByte r 2).toNat ∧ (rxByte r 2).toNat ≤ 250
      ∧ r.length = 5 + (rxByte r 2).toNat
  then (.ok, 0#8) else (.malformed, 0#8)

/-- Stage 6 for `EXP_FUNC = 0x06` (R111). -/
def verdictWs (r : List Byte) : ResStatus × Byte :=
  if r.length = 8 then (.ok, 0#8) else (.malformed, 0#8)

/-- Stage 6 for `EXP_FUNC = 0x10` (R112). -/
def verdictWm (r : List Byte) : ResStatus × Byte :=
  if r.length = 8 then (.ok, 0#8) else (.malformed, 0#8)

/-- Stage 6 for `EXP_FUNC = 0x11` (R113). -/
def verdictId (r : List Byte) : ResStatus × Byte :=
  if 5 ≤ r.length ∧ r.length = 5 + (rxByte r 2).toNat then (.ok, 0#8) else (.malformed, 0#8)

/-- `Classify(R, n, ovf, es, ef)` with `n` the length of `R` (R104). -/
def classify (r : List Byte) (ovf : Bool) (es ef : Byte) : ResStatus × Byte :=
  if ovf = true ∨ r.length < Config.minFrame then (.malformed, 0#8)
  else if crcGood r = false then (.crcMismatch, 0#8)
  else if rxByte r 0 ≠ es then (.slaveMismatch, 0#8)
  else if (rxByte r 1).getLsbD 7 then verdictExc r
  else if rxByte r 1 ≠ ef then (.malformed, 0#8)
  else if ef = Config.fcRh then verdictRh r
  else if ef = Config.fcWs then verdictWs r
  else if ef = Config.fcWm then verdictWm r
  else if ef = Config.fcId then verdictId r
  else (.malformed, 0#8)

/-- Stages 1 to 3 pass: long enough, no overflow, CRC good, from the expected slave (R105 to R107). -/
def frameAccepted (r : List Byte) (ovf : Bool) (es : Byte) : Bool :=
  !ovf && decide (Config.minFrame ≤ r.length) && crcGood r && rxByte r 0 == es

/-- The response frame row that the buffered bytes select for `DEC.END`: they pass stages 1 to 3, and the function byte
decodes to a response format, which is an exception response or that of `EXP_FUNC` (R49, R104). -/
def parserSelect (s : State) : Option Instr :=
  if s.decSt = .recv ∧ frameAccepted s.rxFrame s.rxOvf s.expSlave = true then
    match decode (.response (rxByte s.rxFrame 1)) with
    | .ok i => if (rxByte s.rxFrame 1).getLsbD 7 = true ∨ rxByte s.rxFrame 1 = s.expFunc then some i else none
    | .error _ => none
  else none

end Sys2Proof.Machine
end

