-- ==== Sys2Proof/Machine/Encoder.lean ====
section
/-! DEFINITION. The encoder commands `ENC.RH`, `ENC.WS`, `ENC.WM`, `ENC.ID`, `VBUF.WR` (R80 to R85). A command whose
guard is false is not accepted: no state changes, and the word stays at the command port (R7, R80, R85). -/

namespace Sys2Proof.Machine

/-- The writes of `StartFrame` when the operands are in range (R80). -/
def State.latchFrame (op : ReqOp) (slave : Byte) (addr arg : Word16) (s : State) : State :=
  { s with
    cmdOp := op, cmdSlave := slave, cmdAddr := addr, cmdArg := arg, cmdWritten := true
    txLen := BitVec.ofNat 8 (frameLen op arg), txIdx := 0#8, txCrc := Config.crcInit
    encErr := .none, encSt := .send }

/-- `StartFrame(op, slave, addr, arg)` (R80). -/
def startFrame (op : ReqOp) (slave : Byte) (addr arg : Word16) (s : State) : State :=
  if countOk op arg then s.latchFrame op slave addr arg else s.encFault .badCount

/-- Run an encoder command when `ENC_ST = IDLE`; otherwise it is held (R80, R85). -/
def whenIdle (act : State → State) (s : State) : Host.Outcome State Fault Refusal :=
  if s.encSt = .idle then .next (act s) else .next s

/-- `ENC.RH` (R81). -/
def execEncRh (slave : Byte) (firstReg count : Word16) (s : State) : Host.Outcome State Fault Refusal :=
  whenIdle (startFrame .rh slave firstReg count) s

/-- `ENC.WS` (R82). -/
def execEncWs (slave : Byte) (reg value : Word16) (s : State) : Host.Outcome State Fault Refusal :=
  whenIdle (startFrame .ws slave reg value) s

/-- `ENC.WM` (R83). -/
def execEncWm (slave : Byte) (firstReg n : Word16) (s : State) : Host.Outcome State Fault Refusal :=
  whenIdle (startFrame .wm slave firstReg n) s

/-- `ENC.ID` (R84). What is latched in `CMD_ADDR` and `CMD_ARG` is immaterial (R80) and does not come from the ignored
fields (R47): a free value (log 4). -/
def execEncId (slave : Byte) (s : State) : Host.Outcome State Fault Refusal :=
  whenIdle (fun s =>
    startFrame .id slave (Config.idLatchAddr s.freeCount) (Config.idLatchArg s.freeCount)
      { s with freeCount := s.freeCount + 1 }) s

/-- `VBUF.WR` (R85). -/
def execVbufWr (index value : Word16) (s : State) : Host.Outcome State Fault Refusal :=
  whenIdle (fun s =>
    if indexOk index then (s.vbufWrite index.toNat value).setEncErr .none else s.encFault .badIndex) s

end Sys2Proof.Machine
end

