-- ==== Sys2Proof/Machine/Requests.lean ====
section
/-! DEFINITION. The request frame rows `REQ.RH`, `REQ.WS`, `REQ.WM`, `REQ.ID`: the encoder's step `ENC.EMIT` on a frame
of that layout (R86, R52 to R55; log 6). -/

namespace Sys2Proof.Machine

/-- What one `ENC.EMIT` sends, and `TX_CRC` after it. -/
structure Emission where
  byte : Byte
  last : Bool
  crc : Word16
  deriving DecidableEq, Repr

/-- The byte at `TX_IDX` of the frame in flight (R86, R57); `none` where `TX_IDX` is the index of no byte of it. -/
def State.emission (s : State) : Option Emission :=
  if s.txIdx.toNat + 2 < s.txLen.toNat then
    (s.body[s.txIdx.toNat]?).map fun b => ⟨b, false, crc16Update s.txCrc b⟩
  else if s.txIdx.toNat + 2 = s.txLen.toNat then some ⟨lo8 s.txCrc, false, s.txCrc⟩
  else if s.txIdx.toNat + 1 = s.txLen.toNat then some ⟨hi8 s.txCrc, true, s.txCrc⟩
  else none

/-- The `VBUF` entry that the byte at `TX_IDX` reads, if it reads one: bytes `7+2k` and `8+2k` of a WM body read
`VBUF[k]` (R54). -/
def State.vbufIndexRead (s : State) : Option Nat :=
  if s.cmdOp = .wm ∧ 7 ≤ s.txIdx.toNat ∧ s.txIdx.toNat + 2 < s.txLen.toNat
  then some ((s.txIdx.toNat - 7) / 2) else none

/-- Record that `ENC.EMIT` reads a `VBUF` entry not written since `RESET` (R153, 93 U1; log 5). -/
def State.noteUnwritten (s : State) : State :=
  match s.vbufIndexRead with
  | some k => if Memory.lookup s.vbuf k = none then s.record (.vbufUnwritten k) else s
  | none => s

/-- The writes of `ENC.EMIT` (R86): append to `TXOUT`, advance `TX_IDX`, go `IDLE` after the last byte. -/
def State.sendByte (e : Emission) (s : State) : State :=
  { s with
    txOut := s.txOut ++ [⟨e.byte, e.last⟩], txCrc := e.crc
    txIdx := BitVec.ofNat 8 (s.txIdx.toNat + 1)
    encSt := if e.last then .idle else s.encSt }

/-- `ENC.EMIT` when it is enabled (R86). -/
def emit (s : State) : Host.Outcome State Fault Refusal :=
  match s.emission with
  | some e => .next (s.noteUnwritten.sendByte e)
  | none => .fault .encSequencer

/-- `REQ.RH`: `ENC.EMIT` of a frame of layout R52. -/
def execReqRh (s : State) : Host.Outcome State Fault Refusal :=
  if emitReady .rh s then emit s else .next s

/-- `REQ.WS`: `ENC.EMIT` of a frame of layout R53. -/
def execReqWs (s : State) : Host.Outcome State Fault Refusal :=
  if emitReady .ws s then emit s else .next s

/-- `REQ.WM`: `ENC.EMIT` of a frame of layout R54. -/
def execReqWm (s : State) : Host.Outcome State Fault Refusal :=
  if emitReady .wm s then emit s else .next s

/-- `REQ.ID`: `ENC.EMIT` of a frame of layout R55. -/
def execReqId (s : State) : Host.Outcome State Fault Refusal :=
  if emitReady .id s then emit s else .next s

end Sys2Proof.Machine
end

