-- ==== Sys2Proof/Machine/Parser.lean ====
section
/-! DEFINITION. The parser's commands `DEC.ARM` and `DEC.END`, the link's step `DEC.BYTE`, and the response frame rows
(R100 to R113). -/

namespace Sys2Proof.Machine

/-- `DEC.ARM`: always enabled (R100). -/
def execDecArm (es ef : Byte) (s : State) : Host.Outcome State Fault Refusal :=
  .next (s.arm es ef)

/-- `DEC.END` (R102). Outside `RECV` it is not accepted and stays at the command port (R156), which the model records as
a host-program error (93 U3; log 5). -/
def execDecEnd (s : State) : Host.Outcome State Fault Refusal :=
  if s.decSt = .recv then .next (s.deliver (classify s.rxFrame s.rxOvf s.expSlave s.expFunc))
  else .next (s.record .decEndHeld)

/-- `DEC.BYTE(b)`: stored in `RECV` (R101), dropped elsewhere (R103). -/
def decByte (b : Byte) (s : State) : State :=
  if s.decSt = .recv then s.rxStore b else s

/-- `RSP.RH`: `DEC.END` on a buffer that holds a frame of this row (R110; log 6). -/
def execRspRh (s : State) : Host.Outcome State Fault Refusal :=
  if parserSelect s = some .rspRh then .next (s.deliver (verdictRh s.rxFrame)) else .next s

/-- `RSP.WS`: `DEC.END` on a buffer that holds a frame of this row (R111; log 6). -/
def execRspWs (s : State) : Host.Outcome State Fault Refusal :=
  if parserSelect s = some .rspWs then .next (s.deliver (verdictWs s.rxFrame)) else .next s

/-- `RSP.WM`: `DEC.END` on a buffer that holds a frame of this row (R112; log 6). -/
def execRspWm (s : State) : Host.Outcome State Fault Refusal :=
  if parserSelect s = some .rspWm then .next (s.deliver (verdictWm s.rxFrame)) else .next s

/-- `RSP.ID`: `DEC.END` on a buffer that holds a frame of this row (R113; log 6). -/
def execRspId (s : State) : Host.Outcome State Fault Refusal :=
  if parserSelect s = some .rspId then .next (s.deliver (verdictId s.rxFrame)) else .next s

/-- `RSP.EXC` with function byte `fn`: `DEC.END` on a buffer that holds a frame of this row (R108; log 6). -/
def execRspExc (fn : Byte) (s : State) : Host.Outcome State Fault Refusal :=
  if parserSelect s = some (.rspExc fn) then .next (s.deliver (verdictExc s.rxFrame)) else .next s

end Sys2Proof.Machine
end

