-- ==== Sys2Proof/Machine/System.lean ====
section
/-! DEFINITION. The reserved command (R125). -/

namespace Sys2Proof.Machine

/-- `CMD.RSV`: `ILLCMD <- 1` and nothing else (R125); the model records it as a host-program error (93 U4; log 5). -/
def execCmdRsv (s : State) : Host.Outcome State Fault Refusal :=
  .next (State.record .reservedCommand { s with illCmd := true })

end Sys2Proof.Machine
end

