-- ==== Sys2Proof/Machine/Views.lean ====
section
/-! DEFINITION. The read-only outputs: the result views (R22) and the handshake outputs of the ports (R10). -/

namespace Sys2Proof.Machine

/-- The views show a decoded response: `DEC_ST = DONE` and `RES_STATUS = Ok` (R22). -/
def State.viewsOn (s : State) : Bool := decide (s.decSt = .done) && decide (s.resStatus = .ok)

/-- `RES_NWORDS`, 7 bits (R22). -/
def State.resNwords (s : State) : BitVec 7 :=
  if s.viewsOn = true ∧ s.expFunc = Config.fcRh then BitVec.ofNat 7 ((s.rxRead 2).toNat / 2) else 0#7

/-- `RES_WORD(i)`, 16 bits (R22). -/
def State.resWord (s : State) (i : Nat) : Word16 :=
  if i < s.resNwords.toNat then be16 (s.rxRead (3 + 2 * i)) (s.rxRead (4 + 2 * i)) else 0#16

/-- `RES_ADDR`, 16 bits (R22). -/
def State.resAddr (s : State) : Word16 :=
  if s.viewsOn = true ∧ (s.expFunc = Config.fcWs ∨ s.expFunc = Config.fcWm)
  then be16 (s.rxRead 2) (s.rxRead 3) else 0#16

/-- `RES_ARG`, 16 bits (R22). -/
def State.resArg (s : State) : Word16 :=
  if s.viewsOn = true ∧ (s.expFunc = Config.fcWs ∨ s.expFunc = Config.fcWm)
  then be16 (s.rxRead 4) (s.rxRead 5) else 0#16

/-- `RES_NBYTES`, 8 bits (R22). -/
def State.resNbytes (s : State) : Byte :=
  if s.viewsOn = true ∧ s.expFunc = Config.fcId then s.rxRead 2 else 0#8

/-- `RES_BYTE(i)`, 8 bits (R22). -/
def State.resByte (s : State) (i : Nat) : Byte :=
  if i < s.resNbytes.toNat then s.rxRead (3 + i) else 0#8

/-- Output `tx_valid`: a byte of a frame is on offer (R10, R86). -/
def State.txValid (s : State) : Bool := decide (s.encSt = .send)

/-- Output `tx_byte`, while `tx_valid` (R10, R86). DESIGN CHOICE (log 11): while no byte is on offer, where the spec
is silent, the model gives it no value. -/
def State.txByte (s : State) : Option Byte := if s.txValid then s.emission.map (·.byte) else none

/-- Output `tx_last`, while `tx_valid` (R10, R19). DESIGN CHOICE (log 11): while no byte is on offer, where the spec is
silent, it is low. -/
def State.txLast (s : State) : Bool := s.txValid && (s.emission.map (·.last)).getD false

end Sys2Proof.Machine
end

