-- ==== Sys2Proof/Machine/Fetch.lean ====
section
/-! DEFINITION. How the next event is found: `RESET` first, else the next turn of the schedule; the command at the port
and the frame row it selects; loading a program (R10, R46, R67, R150; log 1). -/

namespace Sys2Proof.Machine

/-- The guard of an instruction, which for a command is `cmd_ready` (R46, R86, R102). -/
def ready (i : Instr) (s : State) : Bool :=
  match i with
  | .encRh _ _ _ => decide (s.encSt = .idle)
  | .encWs _ _ _ => decide (s.encSt = .idle)
  | .encWm _ _ _ => decide (s.encSt = .idle)
  | .encId _ => decide (s.encSt = .idle)
  | .decArm _ _ => true
  | .decEnd => decide (s.decSt = .recv)
  | .vbufWr _ _ => decide (s.encSt = .idle)
  | .cmdRsv => true
  | .reqRh => emitReady .rh s
  | .reqWs => emitReady .ws s
  | .reqWm => emitReady .wm s
  | .reqId => emitReady .id s
  | .rspRh => decide (parserSelect s = some .rspRh)
  | .rspWs => decide (parserSelect s = some .rspWs)
  | .rspWm => decide (parserSelect s = some .rspWm)
  | .rspId => decide (parserSelect s = some .rspId)
  | .rspExc fn => decide (parserSelect s = some (.rspExc fn))

/-- The instruction a command word stands for in this state: `DEC.END` on a buffer whose bytes select a response frame
row is that row, and every other word is the command it decodes to (R46, R104; log 6). -/
def commandInstr (w : CmdWord) (s : State) : Instr :=
  match decodeCommand w with
  | .decEnd => (parserSelect s).getD .decEnd
  | i => i

/-- The instruction at the command port, if a word is presented (R10). -/
def portInstr (s : State) : Option Instr :=
  match s.cmdQ with
  | [] => none
  | w :: _ => some (commandInstr w s)

/-- Output `cmd_ready` (R10): the guard of the command presented. DESIGN CHOICE (log 11): with no command presented,
where the spec defines no level, it is low. -/
def State.cmdReady (s : State) : Bool := (portInstr s).any (fun i => ready i s)

/-- The word at the port is taken when the instruction's guard holds; otherwise it stays and occupies the port (R10,
R156). -/
def State.takeWord (i : Instr) (s : State) : State :=
  if ready i s then { s with cmdQ := s.cmdQ.tail, portHeld := false } else { s with portHeld := true }

/-- The host takes back the word it presents. A word that occupies the port is not given up: a hold is lifted by the
word's guard, or by `RESET` (R156; log 7). -/
def State.withdrawWord (s : State) : State :=
  if s.portHeld then s else { s with cmdQ := s.cmdQ.tail }

/-- What the next step is: an instruction, run in the state given, or an event without one, with the state after it. -/
inductive Fetched where
  | instr (i : Instr) (s : State)
  | other (s : State)
  deriving DecidableEq, Repr

/-- The event of a turn. A byte delivered is consumed in every state (R10, R101, R103). -/
def fetchTurn (t : Turn) (s : State) : Fetched :=
  match t with
  | .host =>
    match portInstr s with
    | some i => .instr i (s.takeWord i)
    | none => .other s
  | .enc => .instr (reqInstr s.cmdOp) s
  | .link =>
    match s.rxQ with
    | b :: bs => .other (decByte b { s with rxQ := bs })
    | [] => .other s
  | .withdraw => .other s.withdrawWord
  | .setTxReady level => .other { s with txReady := level }
  | .raiseRst => .other { s with rst := true }

/-- The next event: `RESET` while `rst` is set, whatever else is presented (R150); else the next turn; with no turn
left, nothing happens. -/
def fetch (s : State) : Fetched :=
  if s.rst then .other s.resetStep
  else
    match s.turns with
    | [] => .other s
    | t :: ts => fetchTurn t { s with turns := ts }

/-- Present a command word and give the host the next turn. -/
def State.presentWord (w : CmdWord) (s : State) : State :=
  { s with rst := false, cmdQ := w :: s.cmdQ, portHeld := false, turns := .host :: s.turns }

/-- The bytes of a response frame with function byte `fn` and every other body byte 0, with its CRC (R58 to R62). -/
def zeroResponse (fn : Byte) : List Byte :=
  let body := if fn = Config.fcWs ∨ fn = Config.fcWm then [0#8, fn, 0#8, 0#8, 0#8, 0#8] else [0#8, fn, 0#8]
  body ++ crcField body

/-- A state in which these bytes stand in `RXBUF` as the response to a request `fn` of slave 0, with `DEC.END` at the
port and the host's turn next. -/
def State.presentResponse (fn : Byte) (s : State) : State :=
  let r := zeroResponse fn
  let armed := s.arm 0#8 fn
  { r.foldl (fun s b => s.rxStore b) armed with
    rst := false, cmdQ := packCommand 5#3 0#8 0#16 0#16 :: s.cmdQ, portHeld := false, turns := .host :: s.turns }

/-- The command word of an instruction; a frame row has none. -/
def commandWord (i : Instr) : Option CmdWord :=
  match encode i with
  | .command w => some w
  | .request _ => none
  | .response _ => none

/-- The commands of `ENC.WMV slave, first_reg, values` (R67). -/
def encWmv (slave : Byte) (firstReg : Word16) (values : List Word16) : List Instr :=
  values.zipIdx.map (fun p => .vbufWr (BitVec.ofNat 16 p.2) p.1)
    ++ [.encWm slave firstReg (BitVec.ofNat 16 values.length)]

/-- Load `DEC.FRAME es, ef, bytes` (R67): the host arms, the link delivers the bytes, the host ends. Nothing else is
left for the host or the link. -/
def State.loadDecFrame (es ef : Byte) (bytes : List Byte) (s : State) : State :=
  { s with
    rst := false, portHeld := false
    cmdQ := [packCommand 4#3 es 0#16 (ef.setWidth 16), packCommand 5#3 0#8 0#16 0#16]
    rxQ := bytes
    turns := .host :: (List.replicate bytes.length .link ++ [.host]) }

/-- Load the commands, each with a turn of the host, behind what is there already. -/
def State.loadCommands (is : List Instr) (s : State) : State :=
  { s with
    cmdQ := s.cmdQ ++ is.filterMap commandWord
    turns := s.turns ++ List.replicate (is.filterMap commandWord).length .host }

/-- Load `DRAIN` of a frame of `n` bytes (R67): `tx_ready` held, then `n` turns of the encoder. -/
def State.loadDrain (n : Nat) (s : State) : State :=
  { s with turns := s.turns ++ (.setTxReady true :: List.replicate n .enc) }

end Sys2Proof.Machine
end

