-- ==== Sys2Proof/Machine/Dispatch.lean ====
section
/-! DEFINITION. One arm per row of the opcode table. -/

namespace Sys2Proof.Machine

def exec (i : Instr) (s : State) : Host.Outcome State Fault Refusal :=
  match i with
  | .encRh slave firstReg count => Sys2Proof.Machine.execEncRh slave firstReg count s
  | .encWs slave reg value => Sys2Proof.Machine.execEncWs slave reg value s
  | .encWm slave firstReg n => Sys2Proof.Machine.execEncWm slave firstReg n s
  | .encId slave => Sys2Proof.Machine.execEncId slave s
  | .decArm es ef => Sys2Proof.Machine.execDecArm es ef s
  | .decEnd => Sys2Proof.Machine.execDecEnd s
  | .vbufWr index value => Sys2Proof.Machine.execVbufWr index value s
  | .cmdRsv => Sys2Proof.Machine.execCmdRsv s
  | .reqRh => Sys2Proof.Machine.execReqRh s
  | .reqWs => Sys2Proof.Machine.execReqWs s
  | .reqWm => Sys2Proof.Machine.execReqWm s
  | .reqId => Sys2Proof.Machine.execReqId s
  | .rspRh => Sys2Proof.Machine.execRspRh s
  | .rspWs => Sys2Proof.Machine.execRspWs s
  | .rspWm => Sys2Proof.Machine.execRspWm s
  | .rspId => Sys2Proof.Machine.execRspId s
  | .rspExc fn => Sys2Proof.Machine.execRspExc fn s

end Sys2Proof.Machine
end

