-- ==== Sys2Proof/Machine/Step.lean ====
section
/-! DEFINITION. One step of the machine, and the state in which its next step runs a given word. -/

namespace Sys2Proof.Machine

/-- Carry out what was fetched. -/
def runFetched : Fetched → Host.Outcome State Fault Refusal
  | .instr i s => exec i s
  | .other s => .next s

/-- One step: the next event (R10, R41, R150). -/
def step (s : State) : Host.Outcome State Fault Refusal := runFetched (fetch s)

/-- `s` with the word of the opcode table placed so that the next step runs it (log 1, log 6): a command word at the
command port with the host's turn next, or a received frame with this function byte, every other body byte 0, for
which `DEC.END` is presented. -/
def State.withFetchWord (s : State) (nbits w : Nat) : State :=
  if nbits ≤ 8 then s.presentResponse (BitVec.ofNat 8 w) else s.presentWord (BitVec.ofNat 43 w)

end Sys2Proof.Machine
end

