-- ==== Sys2Proof/Safety.lean ====
section
/-! DEFINITION. The terms in which claims are made: the invariant of R25, which parts of the state belong to which
unit, and which runs the spec lets a model trust. -/

namespace Sys2Proof.Machine

/-- The invariant of every reachable state (R25), with what R20, R21, R30 and R114 add to it. The clauses of R25 that
bound a register's code (`RX_LEN <= 256`, clause 7) hold by the types of the fields. -/
structure State.Inv (s : State) : Prop where
  /-- `VBUF` is in canonical form, every index below 123 (R30). -/
  vbufWf : Memory.wf Config.nVbuf s.vbuf = true
  /-- `RXBUF` is in canonical form, every index below 256 (R30). -/
  rxbufWf : Memory.wf Config.maxAdu s.rxbuf = true
  /-- The bytes below `RX_LEN` have been written (R20, 93 U1). -/
  rxWritten : ∀ i < s.rxLen.val, (Memory.lookup s.rxbuf i).isSome
  /-- `TX_IDX < TX_LEN` while sending (R25.1). -/
  sendIdx : s.encSt = .send → s.txIdx.toNat < s.txLen.toNat
  /-- `TX_LEN` is the length of the frame being sent (R13, R56). -/
  sendLen : s.encSt = .send → s.txLen.toNat = frameLen s.cmdOp s.cmdArg
  /-- The count of the frame being sent is in range (R25.3). -/
  sendCount : s.encSt = .send → countOk s.cmdOp s.cmdArg = true
  /-- `ENC_ERR = None` while sending (R25.2). -/
  sendErr : s.encSt = .send → s.encErr = .none
  /-- The operand registers have been written while sending (R25.2). -/
  sendWritten : s.encSt = .send → s.cmdWritten = true
  /-- `TX_CRC` is the CRC of the body bytes emitted so far (R21, R87). -/
  sendCrc : s.encSt = .send → s.txCrc = crc16 (s.body.take s.txIdx.toNat)
  /-- `RX_OVF = 1` implies `RX_LEN = 256` (R25.4). -/
  ovfFull : s.rxOvf = true → s.rxLen.val = 256
  /-- `RES_STATUS != None` if and only if `DEC_ST = DONE` (R25.5). -/
  resultDone : s.resStatus ≠ .none ↔ s.decSt = .done
  /-- `RES_EXC != 0` implies `RES_STATUS = ExceptionResponse` (R25.6). -/
  excStatus : s.resExc ≠ 0#8 → s.resStatus = .exceptionResponse
  /-- `EXP_SLAVE` and `EXP_FUNC` have been written in `RECV` and `DONE` (R25.8). -/
  expWrittenArmed : s.decSt ≠ .idle → s.expWritten = true
  /-- In `DONE` the result is that of `Classify` on the buffered bytes (R102, R114). -/
  resultIsVerdict : s.decSt = .done → (s.resStatus, s.resExc) = classify s.rxFrame s.rxOvf s.expSlave s.expFunc

/-- `t` has the encoder's registers of `s`: sequencer, CRC, operands, value buffer and transmit trace (R11 to R21). -/
def SameEncoder (s t : State) : Prop :=
  t.encSt = s.encSt ∧ t.txIdx = s.txIdx ∧ t.txLen = s.txLen ∧ t.txCrc = s.txCrc ∧ t.encErr = s.encErr
    ∧ t.cmdOp = s.cmdOp ∧ t.cmdSlave = s.cmdSlave ∧ t.cmdAddr = s.cmdAddr ∧ t.cmdArg = s.cmdArg
    ∧ t.vbuf = s.vbuf ∧ t.txOut = s.txOut

/-- `t` has the parser's registers of `s`: sequencer, operands, buffer, flags and result (R11 to R22). -/
def SameParser (s t : State) : Prop :=
  t.decSt = s.decSt ∧ t.expSlave = s.expSlave ∧ t.expFunc = s.expFunc ∧ t.rxbuf = s.rxbuf ∧ t.rxLen = s.rxLen
    ∧ t.rxOvf = s.rxOvf ∧ t.resStatus = s.resStatus ∧ t.resExc = s.resExc

/-- `t` is presented the inputs of `s` (R10, R23). -/
def SameInputs (s t : State) : Prop :=
  t.rst = s.rst ∧ t.txReady = s.txReady ∧ t.cmdQ = s.cmdQ ∧ t.portHeld = s.portHeld ∧ t.rxQ = s.rxQ
    ∧ t.turns = s.turns

/-- A record of a host-program error, as against a fault the block reports (93 U1, U3, U4). -/
def FaultRecord.isHostError : FaultRecord → Bool
  | .parser _ _ => false
  | .encoder _ => false
  | .reservedCommand => true
  | .decEndHeld => true
  | .vbufUnwritten _ => true

/-- No host-program error has been recorded: the runs the spec lets a model trust (93 Part 1). -/
def State.trusted (s : State) : Bool := !s.faultLog.any FaultRecord.isHostError

/-- The encode command for the request `op` with operands `S`, `A`, `G` (R46). -/
def encInstr (op : ReqOp) (slave : Byte) (addr arg : Word16) : Instr :=
  match op with
  | .rh => .encRh slave addr arg
  | .ws => .encWs slave addr arg
  | .wm => .encWm slave addr arg
  | .id => .encId slave

/-- `RXBUF` holds a frame that passes stages 1 to 3 of `Classify` and has the function byte `fn` (R105 to R107). -/
def HoldsFrame (s : State) (fn : Byte) : Prop :=
  s.decSt = .recv ∧ s.rxOvf = false ∧ 4 ≤ s.rxLen.val ∧ crcGood s.rxFrame = true
    ∧ rxByte s.rxFrame 0 = s.expSlave ∧ rxByte s.rxFrame 1 = fn

/-- The word that occupies the command port is a `DEC.END` whose guard is false (R156). -/
def PortHung (s : State) : Prop :=
  s.decSt ≠ .recv ∧ s.portHeld = true ∧ ∃ w ws, s.cmdQ = w :: ws ∧ decode (.command w) = .ok .decEnd

/-- How many of these turns are a step `ENC.EMIT` that `tx_ready` enables, from this level of `tx_ready` on (R86). -/
def emitTurns : Bool → List Turn → Nat
  | _, [] => 0
  | level, .enc :: ts => (if level then 1 else 0) + emitTurns level ts
  | _, .setTxReady level :: ts => emitTurns level ts
  | level, .host :: ts => emitTurns level ts
  | level, .withdraw :: ts => emitTurns level ts
  | level, .link :: ts => emitTurns level ts
  | level, .raiseRst :: ts => emitTurns level ts

/-- The bytes of one frame as they stand in `TXOUT`: `last` on the final byte only (R19, R87). -/
def tagFrame (bytes : List Byte) : List TxByte :=
  bytes.zipIdx.map (fun p => ⟨p.1, decide (p.2 + 1 = bytes.length)⟩)

/-- `r` with bit `k` of byte `j` flipped (R76). -/
def flipBit (r : List Byte) (j k : Nat) : List Byte :=
  r.modify j (fun b => b ^^^ (1#8 <<< k))

end Sys2Proof.Machine
end

