-- ==== Sys2Proof/Certificates/Slice0/Obligations.lean ====
section
/-! DEFINITION. The statements for the provers. A statement that leaves `faultLog`, `freeCount` or `portHeld` of the next
state open says so by taking them from that state: they are the model's own fields, and the spec gives them no value. -/

open Sys2Proof Sys2Proof.Machine

/-! ### Encodings -/

/-- R45, R46, R66, R49: words written out from the tables of the spec, and what they are. -/
def Obligations.SpecWordsDecode : Prop :=
  decode (.command 0x0010000000A#43) = .ok (.encRh 1#8 0#16 10#16)
    ∧ decode (.command 0x101000A0007#43) = .ok (.encWs 1#8 10#16 7#16)
    ∧ decode (.command 0x201000A0003#43) = .ok (.encWm 1#8 10#16 3#16)
    ∧ decode (.command 0x301FFFFFFFF#43) = .ok (.encId 1#8)
    ∧ decode (.command 0x41100000011#43) = .ok (.decArm 0x11#8 0x11#8)
    ∧ decode (.command 0x50000000000#43) = .ok .decEnd
    ∧ decode (.command 0x600007ABEEF#43) = .ok (.vbufWr 122#16 0xBEEF#16)
    ∧ decode (.command 0x70000000000#43) = .ok .cmdRsv
    ∧ decode (.request 0x10#8) = .ok .reqWm
    ∧ decode (.response 0x86#8) = .ok (.rspExc 0x86#8)

/-- Decode and encode agree on every well-formed instruction, with every operand at every value (R45 to R49). -/
def Obligations.DecodeOfEncode : Prop :=
  ∀ i : Instr, i.wellFormed = true → decode (encode i) = .ok i

/-- R46: each command by its match and mask, with the fields it uses taken from their bits (R45). -/
def Obligations.MatchAndMaskSelectCommand : Prop :=
  ∀ w : CmdWord,
    (w &&& 0x70000000000#43 = 0x00000000000#43 →
      decode (.command w) = .ok (.encRh (w.extractLsb' 32 8) (w.extractLsb' 16 16) (w.extractLsb' 0 16)))
    ∧ (w &&& 0x70000000000#43 = 0x10000000000#43 →
      decode (.command w) = .ok (.encWs (w.extractLsb' 32 8) (w.extractLsb' 16 16) (w.extractLsb' 0 16)))
    ∧ (w &&& 0x70000000000#43 = 0x20000000000#43 →
      decode (.command w) = .ok (.encWm (w.extractLsb' 32 8) (w.extractLsb' 16 16) (w.extractLsb' 0 16)))
    ∧ (w &&& 0x70000000000#43 = 0x30000000000#43 → decode (.command w) = .ok (.encId (w.extractLsb' 32 8)))
    ∧ (w &&& 0x70000000000#43 = 0x40000000000#43 →
      decode (.command w) = .ok (.decArm (w.extractLsb' 32 8) (w.extractLsb' 0 8)))
    ∧ (w &&& 0x70000000000#43 = 0x50000000000#43 → decode (.command w) = .ok .decEnd)
    ∧ (w &&& 0x70000000000#43 = 0x60000000000#43 →
      decode (.command w) = .ok (.vbufWr (w.extractLsb' 16 16) (w.extractLsb' 0 16)))
    ∧ (w &&& 0x70000000000#43 = 0x70000000000#43 → decode (.command w) = .ok .cmdRsv)

/-- R47: two words with the same code that agree on the fields their command uses are the same command. -/
def Obligations.IgnoredFieldsIgnored : Prop :=
  ∀ (code : BitVec 3) (slave slave' : Byte) (addr addr' arg arg' : Word16),
    (code ∈ [0#3, 1#3, 2#3, 3#3, 4#3] → slave = slave') →
    (code ∈ [0#3, 1#3, 2#3, 6#3] → addr = addr' ∧ arg = arg') →
    (code = 4#3 → arg.extractLsb' 0 8 = arg'.extractLsb' 0 8) →
    decode (.command (code ++ slave ++ addr ++ arg)) = decode (.command (code ++ slave' ++ addr' ++ arg'))

/-- R49: the function-code map, for both directions and every byte. The four encoders build their own function byte and
no other; a response byte with bit 7 set is an exception response; a frame with any other function byte, good in its CRC
and its slave, is `Malformed` whatever function is expected. -/
def Obligations.FunctionCodeMap : Prop :=
  (∀ fn : Byte,
    (decode (.request fn) = .ok .reqRh ↔ fn = 0x03#8) ∧ (decode (.request fn) = .ok .reqWs ↔ fn = 0x06#8)
    ∧ (decode (.request fn) = .ok .reqWm ↔ fn = 0x10#8) ∧ (decode (.request fn) = .ok .reqId ↔ fn = 0x11#8)
    ∧ (decode (.response fn) = .ok .rspRh ↔ fn = 0x03#8) ∧ (decode (.response fn) = .ok .rspWs ↔ fn = 0x06#8)
    ∧ (decode (.response fn) = .ok .rspWm ↔ fn = 0x10#8) ∧ (decode (.response fn) = .ok .rspId ↔ fn = 0x11#8)
    ∧ (decode (.response fn) = .ok (.rspExc fn) ↔ fn &&& 0x80#8 = 0x80#8)
    ∧ (fn ∉ [0x03#8, 0x06#8, 0x10#8, 0x11#8] → decode (.request fn) = .error (.noRequestFormat fn))
    ∧ (fn ∉ [0x03#8, 0x06#8, 0x10#8, 0x11#8] → fn &&& 0x80#8 = 0#8 →
        decode (.response fn) = .error (.noResponseFormat fn)
        ∧ ∀ (r : List Byte) (ef : Byte), 4 ≤ r.length → crcGood r = true → rxByte r 1 = fn →
            classify r false (rxByte r 0) ef = (.malformed, 0#8)))
  ∧ ∀ (slave : Byte) (a g : Word16) (vbuf : Nat → Word16),
    (frame .rh slave a g vbuf).getD 1 0#8 = 0x03#8 ∧ (frame .ws slave a g vbuf).getD 1 0#8 = 0x06#8
    ∧ (frame .wm slave a g vbuf).getD 1 0#8 = 0x10#8 ∧ (frame .id slave a g vbuf).getD 1 0#8 = 0x11#8

/-- R66: each line of the textual syntax assembles to the fields its row gives, for every operand in range, ignored
fields to 0; the example of the rule and lines with hexadecimal numbers, as text. -/
def Obligations.AssembledFields : Prop :=
  (∀ s a g : Nat, s < 256 → a < 65536 → g < 65536 →
    (assemble ⟨.encRh, [s, a, g]⟩).map BitVec.toNat = some (0 * 2 ^ 40 + s * 2 ^ 32 + a * 2 ^ 16 + g)
    ∧ (assemble ⟨.encWs, [s, a, g]⟩).map BitVec.toNat = some (1 * 2 ^ 40 + s * 2 ^ 32 + a * 2 ^ 16 + g)
    ∧ (assemble ⟨.encWm, [s, a, g]⟩).map BitVec.toNat = some (2 * 2 ^ 40 + s * 2 ^ 32 + a * 2 ^ 16 + g)
    ∧ (assemble ⟨.encId, [s]⟩).map BitVec.toNat = some (3 * 2 ^ 40 + s * 2 ^ 32)
    ∧ (g < 256 → (assemble ⟨.decArm, [s, g]⟩).map BitVec.toNat = some (4 * 2 ^ 40 + s * 2 ^ 32 + g))
    ∧ (assemble ⟨.decEnd, []⟩).map BitVec.toNat = some (5 * 2 ^ 40)
    ∧ (assemble ⟨.vbufWr, [a, g]⟩).map BitVec.toNat = some (6 * 2 ^ 40 + a * 2 ^ 16 + g)
    ∧ (assemble ⟨.cmdRsv, []⟩).map BitVec.toNat = some (7 * 2 ^ 40))
  ∧ assembleText "ENC.RH 1, 0, 10" = some 0x0010000000A#43 ∧ assembleText "DEC.ARM 0x11, 0x03" = some 0x41100000003#43
  ∧ assembleText "DEC.END" = some 0x50000000000#43 ∧ assembleText "VBUF.WR 122, 0xBEEF" = some 0x600007ABEEF#43

/-! ### The encoder -/

/-- R81: `ENC.RH` in `IDLE` with a count in range latches its operands and starts an 8-byte frame, nothing else changes;
with a count out of range it writes `BadCount` and nothing else; in `SEND` it changes nothing. The worked example. -/
def Obligations.EncRhStartsFrame : Prop :=
  (∀ (s : State) (slave : Byte) (firstReg count : Word16),
    (s.encSt = .idle → 1 ≤ count.toNat → count.toNat ≤ 125 →
      exec (.encRh slave firstReg count) s = .next { s with
        cmdOp := .rh, cmdSlave := slave, cmdAddr := firstReg, cmdArg := count, cmdWritten := true
        txLen := 8#8, txIdx := 0#8, txCrc := 0xFFFF#16, encErr := .none, encSt := .send })
    ∧ (s.encSt = .idle → count.toNat < 1 ∨ 125 < count.toNat →
      ∃ t, exec (.encRh slave firstReg count) s = .next t ∧ t = { s with encErr := .badCount, faultLog := t.faultLog })
    ∧ (s.encSt = .send → exec (.encRh slave firstReg count) s = .next s))
  ∧ ∀ vbuf, frame .rh 1#8 0#16 10#16 vbuf = [0x01#8, 0x03#8, 0x00#8, 0x00#8, 0x00#8, 0x0A#8, 0xC5#8, 0xCD#8]

/-- R82: `ENC.WS` in `IDLE` latches its operands and starts an 8-byte frame for every operand, nothing else changes; in
`SEND` it changes nothing. The worked example. -/
def Obligations.EncWsStartsFrame : Prop :=
  (∀ (s : State) (slave : Byte) (reg value : Word16),
    (s.encSt = .idle →
      exec (.encWs slave reg value) s = .next { s with
        cmdOp := .ws, cmdSlave := slave, cmdAddr := reg, cmdArg := value, cmdWritten := true
        txLen := 8#8, txIdx := 0#8, txCrc := 0xFFFF#16, encErr := .none, encSt := .send })
    ∧ (s.encSt = .send → exec (.encWs slave reg value) s = .next s))
  ∧ ∀ vbuf, frame .ws 1#8 10#16 7#16 vbuf = [0x01#8, 0x06#8, 0x00#8, 0x0A#8, 0x00#8, 0x07#8, 0xE8#8, 0x0A#8]

/-- R83: `ENC.WM` in `IDLE` with a number of values in range latches its operands and starts a frame of `9 + 2*n` bytes,
nothing else changes, `VBUF` in particular; with a number out of range it writes `BadCount` and nothing else; in `SEND`
it changes nothing. The worked example. -/
def Obligations.EncWmStartsFrame : Prop :=
  (∀ (s : State) (slave : Byte) (firstReg n : Word16),
    (s.encSt = .idle → 1 ≤ n.toNat → n.toNat ≤ 123 →
      ∃ t, exec (.encWm slave firstReg n) s = .next t ∧ t.txLen.toNat = 9 + 2 * n.toNat
        ∧ t = { s with
          cmdOp := .wm, cmdSlave := slave, cmdAddr := firstReg, cmdArg := n, cmdWritten := true
          txLen := t.txLen, txIdx := 0#8, txCrc := 0xFFFF#16, encErr := .none, encSt := .send })
    ∧ (s.encSt = .idle → n.toNat < 1 ∨ 123 < n.toNat →
      ∃ t, exec (.encWm slave firstReg n) s = .next t ∧ t = { s with encErr := .badCount, faultLog := t.faultLog })
    ∧ (s.encSt = .send → exec (.encWm slave firstReg n) s = .next s))
  ∧ frame .wm 1#8 10#16 3#16 (fun _ => 7#16) = [0x01#8, 0x10#8, 0x00#8, 0x0A#8, 0x00#8, 0x03#8, 0x06#8, 0x00#8, 0x07#8,
      0x00#8, 0x07#8, 0x00#8, 0x07#8, 0x83#8, 0x63#8]

/-- R84: `ENC.ID` in `IDLE` latches the slave and starts a 4-byte frame; in `SEND` it changes nothing. What `CMD_ADDR` and
`CMD_ARG` hold then is immaterial (R80), so the statement leaves them open, with the model's counter of free values
(log 4). The worked example. -/
def Obligations.EncIdStartsFrame : Prop :=
  (∀ (s : State) (slave : Byte),
    (s.encSt = .idle →
      ∃ t, exec (.encId slave) s = .next t
        ∧ t = { s with
          cmdOp := .id, cmdSlave := slave, cmdAddr := t.cmdAddr, cmdArg := t.cmdArg, cmdWritten := true
          txLen := 4#8, txIdx := 0#8, txCrc := 0xFFFF#16, encErr := .none, encSt := .send
          freeCount := t.freeCount })
    ∧ (s.encSt = .send → exec (.encId slave) s = .next s))
  ∧ ∀ a g vbuf, frame .id 1#8 a g vbuf = [0x01#8, 0x11#8, 0xC0#8, 0x2C#8]

/-- R131: the encoder's errors. A count or a number of values out of range is `BadCount`, an index out of range is
`BadIndex`, and each writes `ENC_ERR` and nothing else; every encoder command and `VBUF.WR` accepted without an error
writes `None`. -/
def Obligations.EncoderErrorTaxonomy : Prop :=
  ∀ (s : State) (slave : Byte) (addr arg : Word16), s.encSt = .idle →
    (arg.toNat < 1 ∨ 125 < arg.toNat →
      ∃ t, exec (.encRh slave addr arg) s = .next t ∧ t = { s with encErr := .badCount, faultLog := t.faultLog })
    ∧ (arg.toNat < 1 ∨ 123 < arg.toNat →
      ∃ t, exec (.encWm slave addr arg) s = .next t ∧ t = { s with encErr := .badCount, faultLog := t.faultLog })
    ∧ (122 < addr.toNat →
      ∃ t, exec (.vbufWr addr arg) s = .next t ∧ t = { s with encErr := .badIndex, faultLog := t.faultLog })
    ∧ (∀ op, countOk op arg = true → ∃ t, exec (encInstr op slave addr arg) s = .next t ∧ t.encErr = .none)
    ∧ (addr.toNat ≤ 122 → ∃ t, exec (.vbufWr addr arg) s = .next t ∧ t.encErr = .none)

/-- R85: `VBUF.WR` in `IDLE` with an index up to 122 writes that entry and clears `ENC_ERR`: every other entry reads as
before, and nothing else changes; above 122 it writes `BadIndex` and nothing else; in `SEND` it changes nothing. The
worked example. -/
def Obligations.VbufWrWritesEntry : Prop :=
  (∀ (s : State) (index value : Word16),
    (s.encSt = .idle → index.toNat ≤ 122 →
      ∃ t, exec (.vbufWr index value) s = .next t ∧ t.vbufRead index.toNat = value
        ∧ (∀ j, j ≠ index.toNat → t.vbufRead j = s.vbufRead j)
        ∧ t = { s with vbuf := t.vbuf, encErr := .none })
    ∧ (s.encSt = .idle → 122 < index.toNat →
      ∃ t, exec (.vbufWr index value) s = .next t ∧ t = { s with encErr := .badIndex, faultLog := t.faultLog })
    ∧ (s.encSt = .send → exec (.vbufWr index value) s = .next s))
  ∧ frame .wm 1#8 0#16 1#16 (State.reset.vbufWrite 0 0x1234#16).vbufRead
      = [0x01#8, 0x10#8, 0x00#8, 0x00#8, 0x00#8, 0x01#8, 0x02#8, 0x12#8, 0x34#8, 0xAB#8, 0x27#8]

/-- R31: `VBUF.WR` above 122 writes nothing and reports `BadIndex`; `DEC.BYTE` with `RX_LEN = 256` writes nothing and
sets `RX_OVF`; so no step ever writes outside a store, and no read falls outside one: the reads of `ENC.EMIT` lie below
123, and no frame depends on anything else; `DEC.END` reads the `RX_LEN` bytes of the buffer, 256 at most; the views
read below `RX_LEN` only. -/
def Obligations.OutOfRangeWritesNothing : Prop :=
  (∀ (s : State) (index value : Word16), s.encSt = .idle → 122 < index.toNat →
    ∃ t, exec (.vbufWr index value) s = .next t ∧ t = { s with encErr := .badIndex, faultLog := t.faultLog })
  ∧ (∀ (s : State) (b : Byte) (bs : List Byte) (ts : List Turn),
    s.rst = false → s.turns = .link :: ts → s.rxQ = b :: bs → s.decSt = .recv → s.rxLen.val = 256 →
    step s = .next { s with turns := ts, rxQ := bs, rxOvf := true })
  ∧ (∀ s t : State, (∀ i, 123 ≤ i → Memory.lookup s.vbuf i = none) → (∀ i, 256 ≤ i → Memory.lookup s.rxbuf i = none) →
    step s = .next t → ∀ i, (123 ≤ i → Memory.lookup t.vbuf i = none) ∧ (256 ≤ i → Memory.lookup t.rxbuf i = none))
  ∧ (∀ s : State, s.Inv → s.encSt = .send → ∀ k, s.vbufIndexRead = some k → k < 123)
  ∧ (∀ (op : ReqOp) (slave : Byte) (addr arg : Word16) (v v' : Nat → Word16), countOk op arg = true →
    (∀ k, k < 123 → v k = v' k) → frame op slave addr arg v = frame op slave addr arg v')
  ∧ ∀ s : State, s.Inv →
    s.rxFrame = (List.range s.rxLen.val).map s.rxRead ∧ s.rxLen.val ≤ 256
    ∧ (s.decSt = .done → s.resStatus = .ok → 2 < s.rxLen.val
      ∧ (∀ i, i < s.resNwords.toNat → 4 + 2 * i < s.rxLen.val)
      ∧ (s.expFunc = 0x06#8 ∨ s.expFunc = 0x10#8 → 5 < s.rxLen.val)
      ∧ (∀ i, i < s.resNbytes.toNat → 3 + i < s.rxLen.val))

/-- The guard rule of R7: an instruction whose guard is false changes no state of the block. For the eight commands the
guard is that of R46, and for the request rows that of `ENC.EMIT` (R86) with the layout `CMD_OP` selects (R57). The
spec gives the response rows no guard: theirs, that the buffer selects the row (`parserSelect`), and that a row not
selected changes nothing, is the model's choice of log 6. The model's log may grow (log 5). -/
def Obligations.GuardFalseChangesNothing : Prop :=
  ∀ (i : Instr) (s : State), ready i s = false →
    ∃ t, exec i s = .next t ∧ t = { s with faultLog := t.faultLog }

/-- R52, R86: `REQ.RH`, the step `ENC.EMIT` of a Read Holding Registers frame, at each of its eight bytes. -/
def Obligations.ReqRhSendsLayout : Prop :=
  ∀ (s : State) (i : Nat),
    s.encSt = .send → s.txReady = true → s.cmdOp = .rh → s.txLen = 8#8 → s.txIdx.toNat = i → i < 8 →
    (s.cmdArg.toNat ≤ 125 → hi8 s.cmdArg = 0x00#8) ∧ exec .reqRh s = .next { s with
      txOut := s.txOut ++ [⟨[s.cmdSlave, 0x03#8, hi8 s.cmdAddr, lo8 s.cmdAddr, hi8 s.cmdArg, lo8 s.cmdArg,
        lo8 s.txCrc, hi8 s.txCrc].getD i 0#8, decide (i = 7)⟩]
      txCrc := if i < 6 then crc16Update s.txCrc ([s.cmdSlave, 0x03#8, hi8 s.cmdAddr, lo8 s.cmdAddr, hi8 s.cmdArg,
        lo8 s.cmdArg].getD i 0#8) else s.txCrc
      txIdx := BitVec.ofNat 8 (i + 1)
      encSt := if i = 7 then .idle else .send }

/-- R53, R86: `REQ.WS`, the step `ENC.EMIT` of a Write Single Register frame, at each of its eight bytes. -/
def Obligations.ReqWsSendsLayout : Prop :=
  ∀ (s : State) (i : Nat),
    s.encSt = .send → s.txReady = true → s.cmdOp = .ws → s.txLen = 8#8 → s.txIdx.toNat = i → i < 8 →
    exec .reqWs s = .next { s with
      txOut := s.txOut ++ [⟨[s.cmdSlave, 0x06#8, hi8 s.cmdAddr, lo8 s.cmdAddr, hi8 s.cmdArg, lo8 s.cmdArg,
        lo8 s.txCrc, hi8 s.txCrc].getD i 0#8, decide (i = 7)⟩]
      txCrc := if i < 6 then crc16Update s.txCrc ([s.cmdSlave, 0x06#8, hi8 s.cmdAddr, lo8 s.cmdAddr, hi8 s.cmdArg,
        lo8 s.cmdArg].getD i 0#8) else s.txCrc
      txIdx := BitVec.ofNat 8 (i + 1)
      encSt := if i = 7 then .idle else .send }

/-- R54, R86: `REQ.WM`, the step `ENC.EMIT` of a Write Multiple Registers frame of `n` values, at each of its
`9 + 2*n` bytes: the seven header bytes, the values of `VBUF` high byte first, the CRC low byte first. An entry of
`VBUF` that nothing has written reads as a free value (log 2), and the statement holds for every one. -/
def Obligations.ReqWmSendsLayout : Prop :=
  ∀ (s : State) (i n : Nat),
    s.encSt = .send → s.txReady = true → s.cmdOp = .wm → s.cmdArg.toNat = n → 1 ≤ n → n ≤ 123 →
    s.txLen.toNat = 9 + 2 * n → s.txIdx.toNat = i → i < 9 + 2 * n →
    let b : Byte :=
      if i < 7 then [s.cmdSlave, 0x10#8, hi8 s.cmdAddr, lo8 s.cmdAddr, 0x00#8, lo8 s.cmdArg,
        BitVec.ofNat 8 (2 * n)].getD i 0#8
      else if i < 7 + 2 * n then
        if i % 2 = 1 then hi8 (s.vbufRead ((i - 7) / 2)) else lo8 (s.vbufRead ((i - 8) / 2))
      else if i = 7 + 2 * n then lo8 s.txCrc
      else hi8 s.txCrc
    ∃ t, exec .reqWm s = .next t ∧ t = { s with
      txOut := s.txOut ++ [⟨b, decide (i = 8 + 2 * n)⟩]
      txCrc := if i < 7 + 2 * n then crc16Update s.txCrc b else s.txCrc
      txIdx := BitVec.ofNat 8 (i + 1)
      encSt := if i = 8 + 2 * n then .idle else .send
      faultLog := t.faultLog }

/-- R55, R86: `REQ.ID`, the step `ENC.EMIT` of a Report Slave ID frame, at each of its four bytes. -/
def Obligations.ReqIdSendsLayout : Prop :=
  ∀ (s : State) (i : Nat),
    s.encSt = .send → s.txReady = true → s.cmdOp = .id → s.txLen = 4#8 → s.txIdx.toNat = i → i < 4 →
    exec .reqId s = .next { s with
      txOut := s.txOut ++ [⟨[s.cmdSlave, 0x11#8, lo8 s.txCrc, hi8 s.txCrc].getD i 0#8, decide (i = 3)⟩]
      txCrc := if i < 2 then crc16Update s.txCrc ([s.cmdSlave, 0x11#8].getD i 0#8) else s.txCrc
      txIdx := BitVec.ofNat 8 (i + 1)
      encSt := if i = 3 then .idle else .send }

/-- R153, 93 U1, the model's choice of log 5: `REQ.WM` adds to the fault log exactly when the byte it sends reads a
`VBUF` entry that nothing has written since `RESET`, and then names the entry. -/
def Obligations.UnwrittenValueRecorded : Prop :=
  ∀ (s t : State) (k : Nat), emitReady .wm s = true → exec .reqWm s = .next t →
    (t.faultLog = s.faultLog ++ [.vbufUnwritten k] ↔
      Memory.lookup s.vbuf k = none ∧ (s.txIdx.toNat = 7 + 2 * k ∨ s.txIdx.toNat = 8 + 2 * k)
        ∧ s.txIdx.toNat + 2 < s.txLen.toNat)

/-- R87: an accepted encode command is followed by exactly `FrameLen` steps `ENC.EMIT`, which append exactly the bytes of
`Frame`, with `last` on the final byte only, whatever else happens between them but `RESET`: turns of the host with any
words at the port, bytes of the link, and any levels of `tx_ready`. After `m` of the steps, `m` bytes below `FrameLen`,
the encoder is in `SEND` with `TX_IDX = m` and `TX_CRC` the CRC of the body bytes sent; the step that makes it
`FrameLen` ends in `IDLE`. A command with an error appends nothing. -/
def Obligations.WholeFrameSent : Prop :=
  ∀ (s : State) (op : ReqOp) (slave : Byte) (addr arg : Word16), s.encSt = .idle →
    (countOk op arg = true →
      ∃ s1, exec (encInstr op slave addr arg) s = .next s1 ∧
        ∀ (ready held : Bool) (words : List CmdWord) (bytes : List Byte) (mid ts : List Turn),
          .raiseRst ∉ mid → emitTurns ready mid < frameLen op arg →
          let s2 := { s1 with rst := false, txReady := ready, cmdQ := words, portHeld := held, rxQ := bytes }
          (∃ u, core.run mid.length { s2 with turns := mid ++ ts } = .next u ∧ u.encSt = .send
            ∧ u.txIdx.toNat = emitTurns ready mid
            ∧ u.txOut = s.txOut ++ (tagFrame (frame op slave addr arg s.vbufRead)).take (emitTurns ready mid)
            ∧ (emitTurns ready mid + 2 ≤ frameLen op arg →
              u.txCrc = crc16 ((frameBody op slave addr arg s.vbufRead).take (emitTurns ready mid))))
          ∧ (emitTurns ready (mid ++ [.enc]) = frameLen op arg →
            ∃ t, core.run (mid.length + 1) { s2 with turns := mid ++ .enc :: ts } = .next t ∧ t.encSt = .idle
              ∧ t.turns = ts ∧ t.txOut = s.txOut ++ tagFrame (frame op slave addr arg s.vbufRead)))
    ∧ (countOk op arg = false →
      ∃ t, exec (encInstr op slave addr arg) s = .next t ∧ t.txOut = s.txOut ∧ t.encSt = .idle)

/-- R86, R57: `ENC.EMIT` in a state of the invariant, for every layout: the byte at `TX_IDX` is the body byte, then the
low and the high byte of `TX_CRC`, and it is the byte of `Frame` at `TX_IDX`; `tx_valid`, `tx_byte` and `tx_last` offer it
with its tag, `tx_ready` or not (R10, R19); what is written; where the guard is false, nothing changes. -/
def Obligations.EmitSendsFrameByte : Prop :=
  (∀ s : State, s.Inv → s.encSt = .send →
    let i := s.txIdx.toNat
    let n := s.txLen.toNat
    let f := frame s.cmdOp s.cmdSlave s.cmdAddr s.cmdArg s.vbufRead
    let b : Byte :=
      if i < n - 2 then (frameBody s.cmdOp s.cmdSlave s.cmdAddr s.cmdArg s.vbufRead).getD i 0#8
      else if i = n - 2 then lo8 s.txCrc
      else hi8 s.txCrc
    f.length = n ∧ i < n ∧ b = f.getD i 0#8
    ∧ s.txValid = true ∧ s.txByte = some b ∧ s.txLast = decide (i = n - 1)
    ∧ (s.txReady = true → ∃ t, exec (reqInstr s.cmdOp) s = .next t ∧ t = { s with
        txOut := s.txOut ++ [⟨b, decide (i = n - 1)⟩]
        txCrc := if i < n - 2 then crc16Update s.txCrc b else s.txCrc
        txIdx := BitVec.ofNat 8 (i + 1)
        encSt := if i = n - 1 then .idle else .send
        faultLog := t.faultLog }))
  ∧ ∀ (s : State) (op : ReqOp), s.encSt = .idle ∨ s.txReady = false → exec (reqInstr op) s = .next s

/-! ### CRC -/

/-- R74: the validator passes exactly when the CRC of the body is the last two bytes read little-endian, exactly when the
two comparisons of bytes hold, and exactly when the CRC of all the bytes is 0. -/
def Obligations.CrcCheckIsZeroResidue : Prop :=
  ∀ r : List Byte, 4 ≤ r.length →
    (crcGood r = true ↔
      crc16 (r.take (r.length - 2)) = be16 (r.getD (r.length - 1) 0#8) (r.getD (r.length - 2) 0#8))
    ∧ (crcGood r = true ↔
      lo8 (crc16 (r.take (r.length - 2))) = r.getD (r.length - 2) 0#8
        ∧ hi8 (crc16 (r.take (r.length - 2))) = r.getD (r.length - 1) 0#8)
    ∧ (crcGood r = true ↔ crc16 r = 0x0000#16)

/-- R76: the published check values, and that no frame that passes the CRC check passes it with one bit flipped. -/
def Obligations.SingleBitFlipFailsCrc : Prop :=
  crc16 [0x31#8, 0x32#8, 0x33#8, 0x34#8, 0x35#8, 0x36#8, 0x37#8, 0x38#8, 0x39#8] = 0x4B37#16
  ∧ crc16 [0x01#8, 0x03#8, 0x00#8, 0x00#8, 0x00#8, 0x0A#8] = 0xCDC5#16
  ∧ crcField [0x01#8, 0x03#8, 0x00#8, 0x00#8, 0x00#8, 0x0A#8] = [0xC5#8, 0xCD#8]
  ∧ ∀ (r : List Byte) (j k : Nat), 4 ≤ r.length → crcGood r = true → j < r.length → k < 8 →
      crcGood (flipBit r j k) = false
        ∧ ∀ es ef : Byte, classify (flipBit r j k) false es ef = (.crcMismatch, 0#8)

/-! ### The parser -/

/-- R100: `DEC.ARM` in every state; `RXBUF`, the encoder and the inputs are untouched. -/
def Obligations.DecArmStartsReception : Prop :=
  ∀ (s : State) (es ef : Byte),
    exec (.decArm es ef) s = .next { s with
      expSlave := es, expFunc := ef, expWritten := true, rxLen := 0, rxOvf := false
      resStatus := .none, resExc := 0#8, decSt := .recv }

/-- R101, R103: a byte delivered in `RECV` is stored at `RX_LEN`, or dropped with `RX_OVF` when 256 are in; outside
`RECV` it is consumed and dropped. Every other entry of `RXBUF` reads as before, and nothing else changes. -/
def Obligations.ByteStoredOrDropped : Prop :=
  ∀ (s : State) (b : Byte) (bs : List Byte) (ts : List Turn),
    s.rst = false → s.turns = .link :: ts → s.rxQ = b :: bs →
    (s.decSt = .recv → s.rxLen.val < 256 →
      ∃ t, step s = .next t ∧ t.rxRead s.rxLen.val = b ∧ (∀ j, j ≠ s.rxLen.val → t.rxRead j = s.rxRead j)
        ∧ t.rxLen.val = s.rxLen.val + 1
        ∧ t = { s with turns := ts, rxQ := bs, rxbuf := t.rxbuf, rxLen := t.rxLen })
    ∧ (s.decSt = .recv → s.rxLen.val = 256 → step s = .next { s with turns := ts, rxQ := bs, rxOvf := true })
    ∧ (s.decSt ≠ .recv → step s = .next { s with turns := ts, rxQ := bs })

/-- R102: `DEC.END` in `RECV` writes the pair of `Classify` and `DEC_ST <- DONE`, and nothing else; `RX_LEN = 0` gives
`Malformed`; outside `RECV` the word stays at the command port and nothing changes (the model's mark of a held word,
log 7, is left open). -/
def Obligations.DecEndClassifies : Prop :=
  (∀ s : State, s.decSt = .recv →
    ∃ t, exec .decEnd s = .next t
      ∧ (t.resStatus, t.resExc) = classify s.rxFrame s.rxOvf s.expSlave s.expFunc
      ∧ (s.rxLen = 0 → t.resStatus = .malformed)
      ∧ t = { s with resStatus := t.resStatus, resExc := t.resExc, decSt := .done, faultLog := t.faultLog })
  ∧ ∀ (s : State) (w : CmdWord) (ws : List CmdWord) (ts : List Turn),
    s.rst = false → s.turns = .host :: ts → s.cmdQ = w :: ws → decode (.command w) = .ok .decEnd →
    s.decSt ≠ .recv → ∃ t, step s = .next t ∧ t = { s with turns := ts, portHeld := t.portHeld, faultLog := t.faultLog }

/-- R110: `RSP.RH`. The result is `Ok` if and only if the byte count is even, 2 to 250, and the length is 5 more; on
`Ok` the registers stand in the views; `RES_EXC` is 0, and nothing else changes. The worked examples. -/
def Obligations.RspRhVerdict : Prop :=
  (∀ s : State, HoldsFrame s 0x03#8 → s.expFunc = 0x03#8 →
    ∃ t, exec .rspRh s = .next t
      ∧ (t.resStatus = .ok ↔ (rxByte s.rxFrame 2).toNat % 2 = 0 ∧ 2 ≤ (rxByte s.rxFrame 2).toNat
          ∧ (rxByte s.rxFrame 2).toNat ≤ 250 ∧ s.rxLen.val = 5 + (rxByte s.rxFrame 2).toNat)
      ∧ (t.resStatus = .ok → 2 * t.resNwords.toNat = (rxByte s.rxFrame 2).toNat
          ∧ ∀ i, i < t.resNwords.toNat → t.resWord i = rxByte s.rxFrame (3 + 2 * i) ++ rxByte s.rxFrame (4 + 2 * i))
      ∧ (t.resStatus ≠ .ok → t.resStatus = .malformed)
      ∧ t = { s with resStatus := t.resStatus, resExc := 0#8, decSt := .done, faultLog := t.faultLog })
  ∧ classify [0x01#8, 0x03#8, 0x02#8, 0x12#8, 0x34#8, 0xB5#8, 0x33#8] false 1#8 0x03#8 = (.ok, 0#8)
  ∧ classify [0x01#8, 0x03#8, 0x03#8, 0x12#8, 0x34#8, 0x56#8, 0x73#8, 0x75#8] false 1#8 0x03#8 = (.malformed, 0#8)
  ∧ classify [0x01#8, 0x03#8, 0x00#8, 0x20#8, 0xF0#8] false 1#8 0x03#8 = (.malformed, 0#8)

/-- R111, R112: `RSP.WS` and `RSP.WM`. The result is `Ok` if and only if the frame is 8 bytes; on `Ok` the views show the
echoed or acknowledged pair; `RES_EXC` is 0, and nothing else changes. The worked examples. -/
def Obligations.RspWriteVerdict : Prop :=
  (∀ (s : State) (i : Instr) (fn : Byte), i = .rspWs ∧ fn = 0x06#8 ∨ i = .rspWm ∧ fn = 0x10#8 →
    HoldsFrame s fn → s.expFunc = fn →
    ∃ t, exec i s = .next t ∧ (t.resStatus = .ok ↔ s.rxLen.val = 8)
      ∧ (t.resStatus = .ok → t.resAddr = rxByte s.rxFrame 2 ++ rxByte s.rxFrame 3
          ∧ t.resArg = rxByte s.rxFrame 4 ++ rxByte s.rxFrame 5)
      ∧ (t.resStatus ≠ .ok → t.resStatus = .malformed)
      ∧ t = { s with resStatus := t.resStatus, resExc := 0#8, decSt := .done, faultLog := t.faultLog })
  ∧ classify [0x01#8, 0x06#8, 0x00#8, 0x0A#8, 0x00#8, 0x07#8, 0xE8#8, 0x0A#8] false 1#8 0x06#8 = (.ok, 0#8)
  ∧ classify [0x01#8, 0x10#8, 0x00#8, 0x0A#8, 0x00#8, 0x03#8, 0xA0#8, 0x0A#8] false 1#8 0x10#8 = (.ok, 0#8)

/-- R113: `RSP.ID`. The result is `Ok` if and only if the length is 5 more than the byte count; on `Ok` the data bytes
stand in the views; `RES_EXC` is 0, and nothing else changes. The worked example. -/
def Obligations.RspIdVerdict : Prop :=
  (∀ s : State, HoldsFrame s 0x11#8 → s.expFunc = 0x11#8 →
    ∃ t, exec .rspId s = .next t
      ∧ (t.resStatus = .ok ↔ s.rxLen.val = 5 + (rxByte s.rxFrame 2).toNat)
      ∧ (t.resStatus = .ok → t.resNbytes = rxByte s.rxFrame 2
          ∧ ∀ i, i < t.resNbytes.toNat → t.resByte i = rxByte s.rxFrame (3 + i))
      ∧ (t.resStatus ≠ .ok → t.resStatus = .malformed)
      ∧ t = { s with resStatus := t.resStatus, resExc := 0#8, decSt := .done, faultLog := t.faultLog })
  ∧ classify [0x01#8, 0x11#8, 0x05#8, 0x42#8, 0xFF#8, 0x4C#8, 0x4D#8, 0x42#8, 0xBC#8, 0x3E#8] false 1#8 0x11#8
      = (.ok, 0#8)

/-- R108: `RSP.EXC`, for every function byte with bit 7 set and every `EXP_FUNC`: of 5 bytes it is
`ExceptionResponse` with its code passed through, of any other length `Malformed`. The worked example. -/
def Obligations.RspExcVerdict : Prop :=
  (∀ (s : State) (fn : Byte), fn.getLsbD 7 = true → HoldsFrame s fn →
    ∃ t, exec (.rspExc fn) s = .next t
      ∧ (s.rxLen.val = 5 → t.resStatus = .exceptionResponse ∧ t.resExc = rxByte s.rxFrame 2)
      ∧ (s.rxLen.val ≠ 5 → t.resStatus = .malformed ∧ t.resExc = 0#8)
      ∧ t = { s with resStatus := t.resStatus, resExc := t.resExc, decSt := .done, faultLog := t.faultLog })
  ∧ classify [0x01#8, 0x86#8, 0x02#8, 0xC3#8, 0xA1#8] false 1#8 0x03#8 = (.exceptionResponse, 0x02#8)

/-- The response rows are `DEC.END`: where the buffered bytes select a row, running the row and running `DEC.END` give
the same outcome (log 6). -/
def Obligations.ResponseRowsAreDecEnd : Prop :=
  ∀ (s : State) (i : Instr), parserSelect s = some i → exec i s = exec .decEnd s

/-- R105, R106, R107, R109: the stages of `Classify` other than the frame checks, in their order. -/
def Obligations.ClassifyStages : Prop :=
  ∀ (r : List Byte) (ovf : Bool) (es ef : Byte),
    (ovf = true ∨ r.length < 4 → classify r ovf es ef = (.malformed, 0#8))
    ∧ (4 ≤ r.length →
      (crc16 (r.take (r.length - 2)) ≠ be16 (rxByte r (r.length - 1)) (rxByte r (r.length - 2)) →
        classify r false es ef = (.crcMismatch, 0#8))
      ∧ (crc16 (r.take (r.length - 2)) = be16 (rxByte r (r.length - 1)) (rxByte r (r.length - 2)) →
        (rxByte r 0 ≠ es → classify r false es ef = (.slaveMismatch, 0#8))
        ∧ (rxByte r 0 = es → (rxByte r 1).getLsbD 7 = false →
          (rxByte r 1 ≠ ef → classify r false es ef = (.malformed, 0#8))
          ∧ (rxByte r 1 = ef → ef ∉ [0x03#8, 0x06#8, 0x10#8, 0x11#8] →
            classify r false es ef = (.malformed, 0#8)))))

/-- What `Ok` says (R104 to R113): `Classify` answers `Ok` exactly on a frame with a good CRC from the expected slave,
with the expected function byte, of that function's layout. -/
def Obligations.OkIffWellFormedResponse : Prop :=
  ∀ (r : List Byte) (ovf : Bool) (es ef : Byte),
    classify r ovf es ef = (.ok, 0#8) ↔
      ovf = false ∧ 4 ≤ r.length ∧ crcGood r = true ∧ rxByte r 0 = es ∧ rxByte r 1 = ef
      ∧ ((ef = 0x03#8 ∧ (rxByte r 2).toNat % 2 = 0 ∧ 2 ≤ (rxByte r 2).toNat ∧ (rxByte r 2).toNat ≤ 250
            ∧ r.length = 5 + (rxByte r 2).toNat)
        ∨ (ef = 0x06#8 ∧ r.length = 8) ∨ (ef = 0x10#8 ∧ r.length = 8)
        ∨ (ef = 0x11#8 ∧ r.length = 5 + (rxByte r 2).toNat))

/-- R130, R17: the numeric codes of `RES_STATUS`, and for each code that `DEC.END` leaves its cause: 1 `Ok`, 2
`CrcMismatch`, 3 `SlaveMismatch`, 4 `Malformed`, 5 `ExceptionResponse`; never 0 `None`. `RES_EXC` is the code byte with
`ExceptionResponse` and 0 with every other (R133). -/
def Obligations.ResultTaxonomy : Prop :=
  (ResStatus.none.code = 0#3 ∧ ResStatus.ok.code = 1#3 ∧ ResStatus.crcMismatch.code = 2#3
    ∧ ResStatus.slaveMismatch.code = 3#3 ∧ ResStatus.malformed.code = 4#3 ∧ ResStatus.exceptionResponse.code = 5#3)
  ∧ ∀ s t : State, s.decSt = .recv → exec .decEnd s = .next t →
    let r := s.rxFrame
    let n := s.rxLen.val
    let ef := s.expFunc
    let long := s.rxOvf = false ∧ 4 ≤ n
    let addressed := long ∧ crcGood r = true ∧ rxByte r 0 = s.expSlave
    let fits := ef = 0x03#8 ∧ (rxByte r 2).toNat % 2 = 0 ∧ 2 ≤ (rxByte r 2).toNat ∧ (rxByte r 2).toNat ≤ 250
        ∧ n = 5 + (rxByte r 2).toNat
      ∨ (ef = 0x06#8 ∨ ef = 0x10#8) ∧ n = 8
      ∨ ef = 0x11#8 ∧ n = 5 + (rxByte r 2).toNat
    t.resStatus.code ≠ 0#3
    ∧ (t.resStatus.code = 1#3 ↔ addressed ∧ rxByte r 1 = ef ∧ fits)
    ∧ (t.resStatus.code = 2#3 ↔ long ∧ crcGood r = false)
    ∧ (t.resStatus.code = 3#3 ↔ long ∧ crcGood r = true ∧ rxByte r 0 ≠ s.expSlave)
    ∧ (t.resStatus.code = 4#3 ↔ ¬ long
      ∨ addressed ∧ (rxByte r 1).getLsbD 7 = true ∧ n ≠ 5
      ∨ addressed ∧ (rxByte r 1).getLsbD 7 = false ∧ (rxByte r 1 ≠ ef ∨ ¬ fits))
    ∧ (t.resStatus.code = 5#3 ↔ addressed ∧ (rxByte r 1).getLsbD 7 = true ∧ n = 5)
    ∧ t.resExc = if t.resStatus.code = 5#3 then rxByte r 2 else 0#8

/-- R115: `DEC.FRAME es, ef, bytes` from every state the block can be in: `DEC.ARM`, then the bytes, with any other
events between them but `RESET` and the parser's own commands (turns of the encoder, of `tx_ready`, and of a host with
any other `words`), then `DEC.END`. It ends in `DONE` with the pair of `Classify`; more than 256 bytes give
`(Malformed, 0)`. -/
def Obligations.DecFrameIsClassify : Prop :=
  ∀ (s : State) (es ef : Byte) (bytes : List Byte) (words : List CmdWord) (mid : List Turn), s.Inv →
    (∀ w ∈ words, decode (.command w) ≠ .ok .decEnd ∧ ∀ a b, decode (.command w) ≠ .ok (.decArm a b)) →
    .raiseRst ∉ mid → mid.count .link = bytes.length →
    ∃ u t, core.run (mid.length + 1) { s with
        rst := false, rxQ := bytes, turns := .host :: mid
        cmdQ := packCommand 4#3 es 0#16 (ef.setWidth 16) :: words } = .next u
      ∧ exec .decEnd u = .next t ∧ t.decSt = .done ∧ t.rxQ = []
      ∧ (bytes.length ≤ 256 → (t.resStatus, t.resExc) = classify bytes false es ef ∧ t.rxFrame = bytes)
      ∧ (256 < bytes.length → (t.resStatus, t.resExc) = (.malformed, 0#8))

/-- R116: an echo responder's answer to a legal Write Multiple Registers request is accepted, and the views acknowledge
the first register and the number of values. -/
def Obligations.EchoRoundTrip : Prop :=
  ∀ (s : State) (slave : Byte) (addr n : Word16) (vbuf : Nat → Word16), countOk .wm n = true →
    let f := frame .wm slave addr n vbuf
    let e := f.take 6 ++ crcField (f.take 6)
    ∃ t, core.run (e.length + 2) (s.loadDecFrame slave 0x10#8 e) = .next t
      ∧ t.resStatus = .ok ∧ t.resAddr = addr ∧ t.resArg = n

/-- R114: from `DEC.END` until the next `DEC.ARM` or `RESET`, no step writes the buffer or the result. -/
def Obligations.ResultStable : Prop :=
  ∀ s t : State, s.decSt = .done → s.rst = false → step s = .next t →
    (∀ es ef ts, s.turns = .host :: ts → portInstr s ≠ some (.decArm es ef)) →
    SameParser s t ∧ ∀ i, t.resWord i = s.resWord i ∧ t.resByte i = s.resByte i ∧ t.resAddr = s.resAddr
      ∧ t.resArg = s.resArg ∧ t.resNwords = s.resNwords ∧ t.resNbytes = s.resNbytes

/-- R22: the views of a decoded response for each expected function, and 0 where a view is not meaningful. -/
def Obligations.ViewsShowResponse : Prop :=
  ∀ (s : State) (i : Nat),
    (s.decSt = .done → s.resStatus = .ok →
      (s.expFunc = 0x03#8 → s.resNwords.toNat = (s.rxRead 2).toNat / 2
        ∧ (i < (s.rxRead 2).toNat / 2 → s.resWord i = s.rxRead (3 + 2 * i) ++ s.rxRead (4 + 2 * i))
        ∧ ((s.rxRead 2).toNat / 2 ≤ i → s.resWord i = 0#16))
      ∧ (s.expFunc ∈ [0x06#8, 0x10#8] → s.resAddr = s.rxRead 2 ++ s.rxRead 3 ∧ s.resArg = s.rxRead 4 ++ s.rxRead 5)
      ∧ (s.expFunc = 0x11#8 → s.resNbytes = s.rxRead 2
        ∧ (i < (s.rxRead 2).toNat → s.resByte i = s.rxRead (3 + i))
        ∧ ((s.rxRead 2).toNat ≤ i → s.resByte i = 0#8)))
    ∧ (s.decSt ≠ .done ∨ s.resStatus ≠ .ok ∨ s.expFunc ≠ 0x03#8 → s.resNwords = 0#7 ∧ s.resWord i = 0#16)
    ∧ (s.decSt ≠ .done ∨ s.resStatus ≠ .ok ∨ s.expFunc ∉ [0x06#8, 0x10#8] → s.resAddr = 0#16 ∧ s.resArg = 0#16)
    ∧ (s.decSt ≠ .done ∨ s.resStatus ≠ .ok ∨ s.expFunc ≠ 0x11#8 → s.resNbytes = 0#8 ∧ s.resByte i = 0#8)

/-! ### Flags, reserved command, reset -/

/-- R125: `CMD.RSV` in every state sets `ILLCMD` and changes no other state of the block; from reset it gives
`STATUS = 0x40`; the flag is sticky, and only `RESET` clears it. -/
def Obligations.CmdRsvSetsIllcmd : Prop :=
  (∀ s : State, ∃ t, exec .cmdRsv s = .next t ∧ t = { s with illCmd := true, faultLog := t.faultLog }
    ∧ (s = State.reset → t.status = 0x40#8))
  ∧ ∀ s t : State, s.illCmd = true → s.rst = false → step s = .next t → t.illCmd = true

/-- R15: the bits of `STATUS`, and their value at reset. -/
def Obligations.StatusPacking : Prop :=
  ∀ s : State,
    (s.status.getLsbD 0 = true ↔ s.encSt = .send)
    ∧ (s.status.extractLsb' 1 2 = 0#2 ↔ s.encErr = .none) ∧ (s.status.extractLsb' 1 2 = 1#2 ↔ s.encErr = .badCount)
    ∧ (s.status.extractLsb' 1 2 = 2#2 ↔ s.encErr = .badIndex)
    ∧ (s.status.extractLsb' 3 2 = 0#2 ↔ s.decSt = .idle) ∧ (s.status.extractLsb' 3 2 = 1#2 ↔ s.decSt = .recv)
    ∧ (s.status.extractLsb' 3 2 = 2#2 ↔ s.decSt = .done)
    ∧ s.status.getLsbD 5 = s.rxOvf ∧ s.status.getLsbD 6 = s.illCmd ∧ s.status.getLsbD 7 = false
    ∧ State.reset.status = 0x00#8

/-- R24: the values the rule gives for reset. The registers it leaves unspecified are not in the statement (log 3). -/
def Obligations.ResetStateValues : Prop :=
  State.reset.encSt = .idle ∧ State.reset.txIdx = 0#8 ∧ State.reset.txLen = 0#8 ∧ State.reset.txCrc = 0xFFFF#16
    ∧ State.reset.encErr = .none ∧ State.reset.decSt = .idle ∧ State.reset.rxLen = 0 ∧ State.reset.rxOvf = false
    ∧ State.reset.resStatus = .none ∧ State.reset.resExc = 0#8 ∧ State.reset.illCmd = false
    ∧ State.reset.txOut = [] ∧ State.reset.status = 0x00#8

/-- R150, R151: `RESET` is taken in every state before anything else, writes the registers of R24, makes the operand
registers and every entry of `VBUF` and `RXBUF` unspecified (none of them is marked as written any more, 93 U1), leaves
`TXOUT` and the other inputs as they are, accepts no pending command, and afterwards `STATUS` and every view read 0. -/
def Obligations.ResetStep : Prop :=
  ∀ s : State, s.rst = true → ∃ t, step s = .next t
    ∧ t.encSt = .idle ∧ t.txIdx = 0#8 ∧ t.txLen = 0#8 ∧ t.txCrc = 0xFFFF#16 ∧ t.encErr = .none
    ∧ t.decSt = .idle ∧ t.rxLen = 0 ∧ t.rxOvf = false ∧ t.resStatus = .none ∧ t.resExc = 0#8 ∧ t.illCmd = false
    ∧ t.cmdWritten = false ∧ t.expWritten = false
    ∧ (∀ i, Memory.lookup t.vbuf i = none ∧ Memory.lookup t.rxbuf i = none)
    ∧ t.txOut = s.txOut ∧ t.txReady = s.txReady ∧ t.cmdQ = s.cmdQ ∧ t.rxQ = s.rxQ ∧ t.turns = s.turns
    ∧ t.status = 0x00#8 ∧ t.resNwords = 0#7 ∧ t.resAddr = 0#16 ∧ t.resArg = 0#16 ∧ t.resNbytes = 0#8
    ∧ ∀ i, t.resWord i = 0#16 ∧ t.resByte i = 0#8

/-! ### The step, the invariant and the whole machine -/

/-- A step runs the decoded instruction: the command at the port on a turn of the host, which is taken from the port
when its guard holds and occupies it otherwise; the response row the buffer selects when that command is `DEC.END`; the
request row `CMD_OP` selects on a turn of the encoder (R10, R46, R57, R156; log 1, log 6, log 7). -/
def Obligations.StepRunsDecoded : Prop :=
  (∀ (s : State) (w : CmdWord) (ws : List CmdWord) (ts : List Turn) (i : Instr),
    s.rst = false → s.turns = .host :: ts → s.cmdQ = w :: ws → decode (.command w) = .ok i →
    step s = exec i { s with turns := ts, cmdQ := if ready i s then ws else s.cmdQ, portHeld := !ready i s })
  ∧ (∀ (s : State) (w : CmdWord) (ws : List CmdWord) (ts : List Turn) (i : Instr),
    s.rst = false → s.turns = .host :: ts → s.cmdQ = w :: ws → decode (.command w) = .ok .decEnd →
    parserSelect s = some i → step s = exec i { s with turns := ts, cmdQ := ws, portHeld := false })
  ∧ ∀ (s : State) (ts : List Turn), s.rst = false → s.turns = .enc :: ts →
    step s = exec (reqInstr s.cmdOp) { s with turns := ts }

/-- Placing a command word makes the next step run it, in the state it was placed in (log 1). -/
def Obligations.FetchWordRuns : Prop :=
  ∀ (s : State) (w : Nat) (i : Instr), decodeTableWord 48 w = some i →
    step (s.withFetchWord 48 w)
      = exec i { s with
          rst := false, cmdQ := if ready i s then s.cmdQ else BitVec.ofNat 43 w :: s.cmdQ, portHeld := !ready i s }

/-- The invariant holds at reset (R25). -/
def Obligations.InvAtReset : Prop := State.reset.Inv

/-- Every step keeps the invariant (R25, R20, R21, R30, R114), from every state that meets it. -/
def Obligations.StepKeepsInv : Prop :=
  ∀ s t : State, s.Inv → step s = .next t → t.Inv

/-- R25: its eight clauses in every state that a run from reset reaches, whatever inputs and schedule the environment
presents. -/
def Obligations.ReachableStatesMeetR25 : Prop :=
  ∀ (n : Nat) (rst txReady held : Bool) (cmdQ : List CmdWord) (rxQ : List Byte) (turns : List Turn) (s : State),
    core.run n { State.reset with
      rst := rst, txReady := txReady, cmdQ := cmdQ, portHeld := held, rxQ := rxQ, turns := turns } = .next s →
    (s.encSt = .send → 4 ≤ s.txLen.toNat ∧ s.txLen.toNat ≤ 255 ∧ s.txIdx.toNat < s.txLen.toNat)
    ∧ (s.encSt = .send → s.cmdWritten = true ∧ s.encErr = .none)
    ∧ (s.encSt = .send → s.cmdOp = .rh → 1 ≤ s.cmdArg.toNat ∧ s.cmdArg.toNat ≤ 125)
    ∧ (s.encSt = .send → s.cmdOp = .wm → 1 ≤ s.cmdArg.toNat ∧ s.cmdArg.toNat ≤ 123)
    ∧ s.rxLen.val ≤ 256 ∧ (s.rxOvf = true → s.rxLen.val = 256)
    ∧ (s.resStatus ≠ .none ↔ s.decSt = .done)
    ∧ (s.resExc ≠ 0#8 → s.resStatus = .exceptionResponse)
    ∧ (s.decSt.code ≠ 3#2 ∧ s.encErr.code ≠ 3#2 ∧ s.resStatus.code.toNat < 6)
    ∧ (s.decSt = .recv ∨ s.decSt = .done → s.expWritten = true)

/-- In every state of the invariant the next step answers a next state: no run from reset stops (R25, 93 U6). -/
def Obligations.InvNeverStops : Prop :=
  ∀ s : State, s.Inv → ∃ t, step s = .next t

/-- R126: the two tables of the sequencers, for every step of the machine: the events that move each sequencer, and that
no other event does. -/
def Obligations.SequencerTransitions : Prop :=
  ∀ s t : State, step s = .next t →
    (s.rst = true → t.encSt = .idle ∧ t.decSt = .idle)
    ∧ (s.rst = false →
      (s.encSt = .idle → (t.encSt = .send ↔ ∃ op slave addr arg ts, s.turns = .host :: ts
        ∧ portInstr s = some (encInstr op slave addr arg) ∧ countOk op arg = true))
      ∧ (s.encSt = .idle → (∃ op slave addr arg ts, s.turns = .host :: ts
        ∧ portInstr s = some (encInstr op slave addr arg) ∧ op ≠ .id ∧ countOk op arg = false) → t.encErr = .badCount)
      ∧ (s.encSt = .send → (t.encSt = .idle ↔ (∃ ts, s.turns = .enc :: ts) ∧ s.txReady = true
        ∧ s.txIdx.toNat + 1 = s.txLen.toNat))
      ∧ ((∃ es ef ts, s.turns = .host :: ts ∧ portInstr s = some (.decArm es ef)) → t.decSt = .recv)
      ∧ (s.decSt = .recv → (∃ w ws ts, s.turns = .host :: ts ∧ s.cmdQ = w :: ws
        ∧ decode (.command w) = .ok .decEnd) → t.decSt = .done)
      ∧ (t.decSt ≠ s.decSt →
        (t.decSt = .recv ∧ ∃ es ef ts, s.turns = .host :: ts ∧ portInstr s = some (.decArm es ef))
        ∨ (s.decSt = .recv ∧ t.decSt = .done ∧ ∃ w ws ts, s.turns = .host :: ts ∧ s.cmdQ = w :: ws
            ∧ decode (.command w) = .ok .decEnd)))

/-- R18: `VBUF` is written by `VBUF.WR` only, besides `RESET`; no other step changes it. -/
def Obligations.OnlyVbufWrWritesVbuf : Prop :=
  ∀ s t : State, step s = .next t → s.rst = false → t.vbuf ≠ s.vbuf →
    s.encSt = .idle ∧ ∃ index value ts, s.turns = .host :: ts ∧ portInstr s = some (.vbufWr index value)
      ∧ index.toNat ≤ 122

/-- R19, R39: `TXOUT` only grows, by one byte at a time, in `SEND`, on a turn of the encoder with `tx_ready`. -/
def Obligations.TxOutAppendOnly : Prop :=
  ∀ s t : State, step s = .next t →
    t.txOut = s.txOut
    ∨ ∃ b ts, t.txOut = s.txOut ++ [b] ∧ s.turns = .enc :: ts ∧ s.encSt = .send ∧ s.txReady = true

/-- R41, R133: the units are independent. An encoder command or a request row leaves the parser, a parser command or a
response row leaves the encoder, `CMD.RSV` leaves both, and no instruction changes an input. -/
def Obligations.UnitsIndependent : Prop :=
  ∀ (i : Instr) (s t : State), exec i s = .next t →
    (SameParser s t ∨ SameEncoder s t) ∧ SameInputs s t ∧ t.epoch = s.epoch
    ∧ ((i = .decEnd ∨ (∃ es ef, i = .decArm es ef) ∨ i = .cmdRsv ∨ i = .rspRh ∨ i = .rspWs ∨ i = .rspWm ∨ i = .rspId
        ∨ ∃ fn, i = .rspExc fn) → SameEncoder s t)
    ∧ ((∃ op slave addr arg, i = encInstr op slave addr arg ∨ i = reqInstr op) ∨ i = .cmdRsv
        ∨ (∃ index value, i = .vbufWr index value) → SameParser s t)
    ∧ (i ≠ .cmdRsv → t.illCmd = s.illCmd)

/-- R41: a turn of the encoder and a turn of the link commute. -/
def Obligations.EmitAndByteCommute : Prop :=
  ∀ (s : State) (ts : List Turn),
    core.run 2 { s with rst := false, turns := .enc :: .link :: ts }
      = core.run 2 { s with rst := false, turns := .link :: .enc :: ts }

/-- R10, R46, R156: the command at the port is taken in the host's turn exactly when its guard holds, `cmd_ready` is that
guard, a word not taken occupies the port, and no other step moves the port, but that the host may take back a word that
does not occupy it (log 7). -/
def Obligations.CommandTakenWhenGuardHolds : Prop :=
  ∀ (s t : State) (w : CmdWord) (ws : List CmdWord) (i : Instr),
    s.rst = false → s.cmdQ = w :: ws → decode (.command w) = .ok i → step s = .next t →
    (s.cmdReady = true ↔
      ((∃ op slave addr arg, i = encInstr op slave addr arg) ∨ (∃ index value, i = .vbufWr index value) → s.encSt = .idle)
      ∧ (i = .decEnd → s.decSt = .recv))
    ∧ (t.cmdQ = ws ↔ (∃ ts, s.turns = .host :: ts) ∧ s.cmdReady = true
      ∨ (∃ ts, s.turns = .withdraw :: ts) ∧ s.portHeld = false)
    ∧ (t.cmdQ ≠ ws → t.cmdQ = s.cmdQ)
    ∧ ((∃ ts, s.turns = .host :: ts) → t.portHeld = !s.cmdReady)
    ∧ ((∀ ts, s.turns ≠ .host :: ts) → t.portHeld = s.portHeld)

/-- R156: a `DEC.END` held at the port outside `RECV` stays there in every step other than `RESET`, even when the host
would take it back, while the encoder and the link go on as they do with a free port. `RESET` ends every hold: the word
still stands at the port, to be looked at afresh (R150), but it no longer occupies it, and the host can take it back and
issue another. How R150 and R156 meet there is the model's reading, log 7. -/
def Obligations.DecEndOutsideRecvHangs : Prop :=
  (∀ s t : State, PortHung s → s.rst = false → step s = .next t → PortHung t ∧ t.cmdQ = s.cmdQ
    ∧ ((∃ ts, s.turns = .enc :: ts ∨ s.turns = .link :: ts) →
      step { s with cmdQ := [], portHeld := false } = .next { t with cmdQ := [], portHeld := false }))
  ∧ ∀ s : State, s.rst = true → ∃ t, step s = .next t ∧ t.cmdQ = s.cmdQ ∧ t.portHeld = false
    ∧ ∀ ts, step { t with turns := .withdraw :: ts } = .next { t with turns := ts, cmdQ := s.cmdQ.tail }

/-- R14, R136: what clears and what overwrites the result and `ENC_ERR`: `RES_STATUS` returns to `None` only by
`DEC.ARM` or `RESET`; `ENC_ERR` changes only by an encoder command or `VBUF.WR` in `IDLE`, or by `RESET`. -/
def Obligations.FaultsClearedOnlyBySpecEvents : Prop :=
  ∀ s t : State, step s = .next t → s.rst = false →
    (s.resStatus ≠ .none → t.resStatus = .none →
      ∃ es ef ts, s.turns = .host :: ts ∧ portInstr s = some (.decArm es ef))
    ∧ (t.encErr ≠ s.encErr → s.encSt = .idle ∧ ∃ ts, s.turns = .host :: ts
        ∧ ((∃ op slave addr arg, portInstr s = some (encInstr op slave addr arg))
          ∨ ∃ index value, portInstr s = some (.vbufWr index value)))

/-- R137, the model's choice of log 5: the fault log is never cut, not even by `RESET`, and a run that has shown a
host-program error stays marked. -/
def Obligations.FaultLogOnlyGrows : Prop :=
  ∀ s t : State, step s = .next t →
    (∃ l, t.faultLog = s.faultLog ++ l ∧ l.length ≤ 1) ∧ (s.trusted = false → t.trusted = false)
end

