-- ==== Sys2Proof/Laws/State.lean ====
section
/-! SUPPORT. The fields of the state after each named update: one lemma per field and update. -/

namespace Sys2Proof.Machine

variable (s : State)


/-! ### `State.record` -/

@[simp] theorem State.record_encSt (r : FaultRecord) : (s.record r).encSt = s.encSt := rfl
@[simp] theorem State.record_txIdx (r : FaultRecord) : (s.record r).txIdx = s.txIdx := rfl
@[simp] theorem State.record_txLen (r : FaultRecord) : (s.record r).txLen = s.txLen := rfl
@[simp] theorem State.record_txCrc (r : FaultRecord) : (s.record r).txCrc = s.txCrc := rfl
@[simp] theorem State.record_encErr (r : FaultRecord) : (s.record r).encErr = s.encErr := rfl
@[simp] theorem State.record_cmdOp (r : FaultRecord) : (s.record r).cmdOp = s.cmdOp := rfl
@[simp] theorem State.record_cmdSlave (r : FaultRecord) : (s.record r).cmdSlave = s.cmdSlave := rfl
@[simp] theorem State.record_cmdAddr (r : FaultRecord) : (s.record r).cmdAddr = s.cmdAddr := rfl
@[simp] theorem State.record_cmdArg (r : FaultRecord) : (s.record r).cmdArg = s.cmdArg := rfl
@[simp] theorem State.record_vbuf (r : FaultRecord) : (s.record r).vbuf = s.vbuf := rfl
@[simp] theorem State.record_txOut (r : FaultRecord) : (s.record r).txOut = s.txOut := rfl
@[simp] theorem State.record_decSt (r : FaultRecord) : (s.record r).decSt = s.decSt := rfl
@[simp] theorem State.record_expSlave (r : FaultRecord) : (s.record r).expSlave = s.expSlave := rfl
@[simp] theorem State.record_expFunc (r : FaultRecord) : (s.record r).expFunc = s.expFunc := rfl
@[simp] theorem State.record_rxbuf (r : FaultRecord) : (s.record r).rxbuf = s.rxbuf := rfl
@[simp] theorem State.record_rxLen (r : FaultRecord) : (s.record r).rxLen = s.rxLen := rfl
@[simp] theorem State.record_rxOvf (r : FaultRecord) : (s.record r).rxOvf = s.rxOvf := rfl
@[simp] theorem State.record_resStatus (r : FaultRecord) : (s.record r).resStatus = s.resStatus := rfl
@[simp] theorem State.record_resExc (r : FaultRecord) : (s.record r).resExc = s.resExc := rfl
@[simp] theorem State.record_illCmd (r : FaultRecord) : (s.record r).illCmd = s.illCmd := rfl
@[simp] theorem State.record_rst (r : FaultRecord) : (s.record r).rst = s.rst := rfl
@[simp] theorem State.record_txReady (r : FaultRecord) : (s.record r).txReady = s.txReady := rfl
@[simp] theorem State.record_cmdQ (r : FaultRecord) : (s.record r).cmdQ = s.cmdQ := rfl
@[simp] theorem State.record_portHeld (r : FaultRecord) : (s.record r).portHeld = s.portHeld := rfl
@[simp] theorem State.record_rxQ (r : FaultRecord) : (s.record r).rxQ = s.rxQ := rfl
@[simp] theorem State.record_turns (r : FaultRecord) : (s.record r).turns = s.turns := rfl
@[simp] theorem State.record_epoch (r : FaultRecord) : (s.record r).epoch = s.epoch := rfl
@[simp] theorem State.record_freeCount (r : FaultRecord) : (s.record r).freeCount = s.freeCount := rfl
@[simp] theorem State.record_cmdWritten (r : FaultRecord) : (s.record r).cmdWritten = s.cmdWritten := rfl
@[simp] theorem State.record_expWritten (r : FaultRecord) : (s.record r).expWritten = s.expWritten := rfl
@[simp] theorem State.record_faultLog (r : FaultRecord) : (s.record r).faultLog = s.faultLog ++ [r] := rfl

/-! ### `State.setEncErr` -/

@[simp] theorem State.setEncErr_encSt (e : EncErr) : (s.setEncErr e).encSt = s.encSt := rfl
@[simp] theorem State.setEncErr_txIdx (e : EncErr) : (s.setEncErr e).txIdx = s.txIdx := rfl
@[simp] theorem State.setEncErr_txLen (e : EncErr) : (s.setEncErr e).txLen = s.txLen := rfl
@[simp] theorem State.setEncErr_txCrc (e : EncErr) : (s.setEncErr e).txCrc = s.txCrc := rfl
@[simp] theorem State.setEncErr_encErr (e : EncErr) : (s.setEncErr e).encErr = e := rfl
@[simp] theorem State.setEncErr_cmdOp (e : EncErr) : (s.setEncErr e).cmdOp = s.cmdOp := rfl
@[simp] theorem State.setEncErr_cmdSlave (e : EncErr) : (s.setEncErr e).cmdSlave = s.cmdSlave := rfl
@[simp] theorem State.setEncErr_cmdAddr (e : EncErr) : (s.setEncErr e).cmdAddr = s.cmdAddr := rfl
@[simp] theorem State.setEncErr_cmdArg (e : EncErr) : (s.setEncErr e).cmdArg = s.cmdArg := rfl
@[simp] theorem State.setEncErr_vbuf (e : EncErr) : (s.setEncErr e).vbuf = s.vbuf := rfl
@[simp] theorem State.setEncErr_txOut (e : EncErr) : (s.setEncErr e).txOut = s.txOut := rfl
@[simp] theorem State.setEncErr_decSt (e : EncErr) : (s.setEncErr e).decSt = s.decSt := rfl
@[simp] theorem State.setEncErr_expSlave (e : EncErr) : (s.setEncErr e).expSlave = s.expSlave := rfl
@[simp] theorem State.setEncErr_expFunc (e : EncErr) : (s.setEncErr e).expFunc = s.expFunc := rfl
@[simp] theorem State.setEncErr_rxbuf (e : EncErr) : (s.setEncErr e).rxbuf = s.rxbuf := rfl
@[simp] theorem State.setEncErr_rxLen (e : EncErr) : (s.setEncErr e).rxLen = s.rxLen := rfl
@[simp] theorem State.setEncErr_rxOvf (e : EncErr) : (s.setEncErr e).rxOvf = s.rxOvf := rfl
@[simp] theorem State.setEncErr_resStatus (e : EncErr) : (s.setEncErr e).resStatus = s.resStatus := rfl
@[simp] theorem State.setEncErr_resExc (e : EncErr) : (s.setEncErr e).resExc = s.resExc := rfl
@[simp] theorem State.setEncErr_illCmd (e : EncErr) : (s.setEncErr e).illCmd = s.illCmd := rfl
@[simp] theorem State.setEncErr_rst (e : EncErr) : (s.setEncErr e).rst = s.rst := rfl
@[simp] theorem State.setEncErr_txReady (e : EncErr) : (s.setEncErr e).txReady = s.txReady := rfl
@[simp] theorem State.setEncErr_cmdQ (e : EncErr) : (s.setEncErr e).cmdQ = s.cmdQ := rfl
@[simp] theorem State.setEncErr_portHeld (e : EncErr) : (s.setEncErr e).portHeld = s.portHeld := rfl
@[simp] theorem State.setEncErr_rxQ (e : EncErr) : (s.setEncErr e).rxQ = s.rxQ := rfl
@[simp] theorem State.setEncErr_turns (e : EncErr) : (s.setEncErr e).turns = s.turns := rfl
@[simp] theorem State.setEncErr_epoch (e : EncErr) : (s.setEncErr e).epoch = s.epoch := rfl
@[simp] theorem State.setEncErr_freeCount (e : EncErr) : (s.setEncErr e).freeCount = s.freeCount := rfl
@[simp] theorem State.setEncErr_cmdWritten (e : EncErr) : (s.setEncErr e).cmdWritten = s.cmdWritten := rfl
@[simp] theorem State.setEncErr_expWritten (e : EncErr) : (s.setEncErr e).expWritten = s.expWritten := rfl
@[simp] theorem State.setEncErr_faultLog (e : EncErr) : (s.setEncErr e).faultLog = s.faultLog := rfl

/-! ### `State.encFault` -/

@[simp] theorem State.encFault_encSt (e : EncErr) : (s.encFault e).encSt = s.encSt := rfl
@[simp] theorem State.encFault_txIdx (e : EncErr) : (s.encFault e).txIdx = s.txIdx := rfl
@[simp] theorem State.encFault_txLen (e : EncErr) : (s.encFault e).txLen = s.txLen := rfl
@[simp] theorem State.encFault_txCrc (e : EncErr) : (s.encFault e).txCrc = s.txCrc := rfl
@[simp] theorem State.encFault_encErr (e : EncErr) : (s.encFault e).encErr = e := rfl
@[simp] theorem State.encFault_cmdOp (e : EncErr) : (s.encFault e).cmdOp = s.cmdOp := rfl
@[simp] theorem State.encFault_cmdSlave (e : EncErr) : (s.encFault e).cmdSlave = s.cmdSlave := rfl
@[simp] theorem State.encFault_cmdAddr (e : EncErr) : (s.encFault e).cmdAddr = s.cmdAddr := rfl
@[simp] theorem State.encFault_cmdArg (e : EncErr) : (s.encFault e).cmdArg = s.cmdArg := rfl
@[simp] theorem State.encFault_vbuf (e : EncErr) : (s.encFault e).vbuf = s.vbuf := rfl
@[simp] theorem State.encFault_txOut (e : EncErr) : (s.encFault e).txOut = s.txOut := rfl
@[simp] theorem State.encFault_decSt (e : EncErr) : (s.encFault e).decSt = s.decSt := rfl
@[simp] theorem State.encFault_expSlave (e : EncErr) : (s.encFault e).expSlave = s.expSlave := rfl
@[simp] theorem State.encFault_expFunc (e : EncErr) : (s.encFault e).expFunc = s.expFunc := rfl
@[simp] theorem State.encFault_rxbuf (e : EncErr) : (s.encFault e).rxbuf = s.rxbuf := rfl
@[simp] theorem State.encFault_rxLen (e : EncErr) : (s.encFault e).rxLen = s.rxLen := rfl
@[simp] theorem State.encFault_rxOvf (e : EncErr) : (s.encFault e).rxOvf = s.rxOvf := rfl
@[simp] theorem State.encFault_resStatus (e : EncErr) : (s.encFault e).resStatus = s.resStatus := rfl
@[simp] theorem State.encFault_resExc (e : EncErr) : (s.encFault e).resExc = s.resExc := rfl
@[simp] theorem State.encFault_illCmd (e : EncErr) : (s.encFault e).illCmd = s.illCmd := rfl
@[simp] theorem State.encFault_rst (e : EncErr) : (s.encFault e).rst = s.rst := rfl
@[simp] theorem State.encFault_txReady (e : EncErr) : (s.encFault e).txReady = s.txReady := rfl
@[simp] theorem State.encFault_cmdQ (e : EncErr) : (s.encFault e).cmdQ = s.cmdQ := rfl
@[simp] theorem State.encFault_portHeld (e : EncErr) : (s.encFault e).portHeld = s.portHeld := rfl
@[simp] theorem State.encFault_rxQ (e : EncErr) : (s.encFault e).rxQ = s.rxQ := rfl
@[simp] theorem State.encFault_turns (e : EncErr) : (s.encFault e).turns = s.turns := rfl
@[simp] theorem State.encFault_epoch (e : EncErr) : (s.encFault e).epoch = s.epoch := rfl
@[simp] theorem State.encFault_freeCount (e : EncErr) : (s.encFault e).freeCount = s.freeCount := rfl
@[simp] theorem State.encFault_cmdWritten (e : EncErr) : (s.encFault e).cmdWritten = s.cmdWritten := rfl
@[simp] theorem State.encFault_expWritten (e : EncErr) : (s.encFault e).expWritten = s.expWritten := rfl
@[simp] theorem State.encFault_faultLog (e : EncErr) : (s.encFault e).faultLog = s.faultLog ++ [.encoder e] := rfl

/-! ### `State.vbufWrite` -/

@[simp] theorem State.vbufWrite_encSt (i : Nat) (v : Word16) : (s.vbufWrite i v).encSt = s.encSt := rfl
@[simp] theorem State.vbufWrite_txIdx (i : Nat) (v : Word16) : (s.vbufWrite i v).txIdx = s.txIdx := rfl
@[simp] theorem State.vbufWrite_txLen (i : Nat) (v : Word16) : (s.vbufWrite i v).txLen = s.txLen := rfl
@[simp] theorem State.vbufWrite_txCrc (i : Nat) (v : Word16) : (s.vbufWrite i v).txCrc = s.txCrc := rfl
@[simp] theorem State.vbufWrite_encErr (i : Nat) (v : Word16) : (s.vbufWrite i v).encErr = s.encErr := rfl
@[simp] theorem State.vbufWrite_cmdOp (i : Nat) (v : Word16) : (s.vbufWrite i v).cmdOp = s.cmdOp := rfl
@[simp] theorem State.vbufWrite_cmdSlave (i : Nat) (v : Word16) : (s.vbufWrite i v).cmdSlave = s.cmdSlave := rfl
@[simp] theorem State.vbufWrite_cmdAddr (i : Nat) (v : Word16) : (s.vbufWrite i v).cmdAddr = s.cmdAddr := rfl
@[simp] theorem State.vbufWrite_cmdArg (i : Nat) (v : Word16) : (s.vbufWrite i v).cmdArg = s.cmdArg := rfl
@[simp] theorem State.vbufWrite_vbuf (i : Nat) (v : Word16) : (s.vbufWrite i v).vbuf = Memory.write s.vbuf i v := rfl
@[simp] theorem State.vbufWrite_txOut (i : Nat) (v : Word16) : (s.vbufWrite i v).txOut = s.txOut := rfl
@[simp] theorem State.vbufWrite_decSt (i : Nat) (v : Word16) : (s.vbufWrite i v).decSt = s.decSt := rfl
@[simp] theorem State.vbufWrite_expSlave (i : Nat) (v : Word16) : (s.vbufWrite i v).expSlave = s.expSlave := rfl
@[simp] theorem State.vbufWrite_expFunc (i : Nat) (v : Word16) : (s.vbufWrite i v).expFunc = s.expFunc := rfl
@[simp] theorem State.vbufWrite_rxbuf (i : Nat) (v : Word16) : (s.vbufWrite i v).rxbuf = s.rxbuf := rfl
@[simp] theorem State.vbufWrite_rxLen (i : Nat) (v : Word16) : (s.vbufWrite i v).rxLen = s.rxLen := rfl
@[simp] theorem State.vbufWrite_rxOvf (i : Nat) (v : Word16) : (s.vbufWrite i v).rxOvf = s.rxOvf := rfl
@[simp] theorem State.vbufWrite_resStatus (i : Nat) (v : Word16) : (s.vbufWrite i v).resStatus = s.resStatus := rfl
@[simp] theorem State.vbufWrite_resExc (i : Nat) (v : Word16) : (s.vbufWrite i v).resExc = s.resExc := rfl
@[simp] theorem State.vbufWrite_illCmd (i : Nat) (v : Word16) : (s.vbufWrite i v).illCmd = s.illCmd := rfl
@[simp] theorem State.vbufWrite_rst (i : Nat) (v : Word16) : (s.vbufWrite i v).rst = s.rst := rfl
@[simp] theorem State.vbufWrite_txReady (i : Nat) (v : Word16) : (s.vbufWrite i v).txReady = s.txReady := rfl
@[simp] theorem State.vbufWrite_cmdQ (i : Nat) (v : Word16) : (s.vbufWrite i v).cmdQ = s.cmdQ := rfl
@[simp] theorem State.vbufWrite_portHeld (i : Nat) (v : Word16) : (s.vbufWrite i v).portHeld = s.portHeld := rfl
@[simp] theorem State.vbufWrite_rxQ (i : Nat) (v : Word16) : (s.vbufWrite i v).rxQ = s.rxQ := rfl
@[simp] theorem State.vbufWrite_turns (i : Nat) (v : Word16) : (s.vbufWrite i v).turns = s.turns := rfl
@[simp] theorem State.vbufWrite_epoch (i : Nat) (v : Word16) : (s.vbufWrite i v).epoch = s.epoch := rfl
@[simp] theorem State.vbufWrite_freeCount (i : Nat) (v : Word16) : (s.vbufWrite i v).freeCount = s.freeCount := rfl
@[simp] theorem State.vbufWrite_cmdWritten (i : Nat) (v : Word16) : (s.vbufWrite i v).cmdWritten = s.cmdWritten := rfl
@[simp] theorem State.vbufWrite_expWritten (i : Nat) (v : Word16) : (s.vbufWrite i v).expWritten = s.expWritten := rfl
@[simp] theorem State.vbufWrite_faultLog (i : Nat) (v : Word16) : (s.vbufWrite i v).faultLog = s.faultLog := rfl

/-! ### `State.setResult` -/

@[simp] theorem State.setResult_encSt (st : ResStatus) (exc : Byte) : (s.setResult st exc).encSt = s.encSt := rfl
@[simp] theorem State.setResult_txIdx (st : ResStatus) (exc : Byte) : (s.setResult st exc).txIdx = s.txIdx := rfl
@[simp] theorem State.setResult_txLen (st : ResStatus) (exc : Byte) : (s.setResult st exc).txLen = s.txLen := rfl
@[simp] theorem State.setResult_txCrc (st : ResStatus) (exc : Byte) : (s.setResult st exc).txCrc = s.txCrc := rfl
@[simp] theorem State.setResult_encErr (st : ResStatus) (exc : Byte) : (s.setResult st exc).encErr = s.encErr := rfl
@[simp] theorem State.setResult_cmdOp (st : ResStatus) (exc : Byte) : (s.setResult st exc).cmdOp = s.cmdOp := rfl
@[simp] theorem State.setResult_cmdSlave (st : ResStatus) (exc : Byte) : (s.setResult st exc).cmdSlave = s.cmdSlave := rfl
@[simp] theorem State.setResult_cmdAddr (st : ResStatus) (exc : Byte) : (s.setResult st exc).cmdAddr = s.cmdAddr := rfl
@[simp] theorem State.setResult_cmdArg (st : ResStatus) (exc : Byte) : (s.setResult st exc).cmdArg = s.cmdArg := rfl
@[simp] theorem State.setResult_vbuf (st : ResStatus) (exc : Byte) : (s.setResult st exc).vbuf = s.vbuf := rfl
@[simp] theorem State.setResult_txOut (st : ResStatus) (exc : Byte) : (s.setResult st exc).txOut = s.txOut := rfl
@[simp] theorem State.setResult_decSt (st : ResStatus) (exc : Byte) : (s.setResult st exc).decSt = .done := rfl
@[simp] theorem State.setResult_expSlave (st : ResStatus) (exc : Byte) : (s.setResult st exc).expSlave = s.expSlave := rfl
@[simp] theorem State.setResult_expFunc (st : ResStatus) (exc : Byte) : (s.setResult st exc).expFunc = s.expFunc := rfl
@[simp] theorem State.setResult_rxbuf (st : ResStatus) (exc : Byte) : (s.setResult st exc).rxbuf = s.rxbuf := rfl
@[simp] theorem State.setResult_rxLen (st : ResStatus) (exc : Byte) : (s.setResult st exc).rxLen = s.rxLen := rfl
@[simp] theorem State.setResult_rxOvf (st : ResStatus) (exc : Byte) : (s.setResult st exc).rxOvf = s.rxOvf := rfl
@[simp] theorem State.setResult_resStatus (st : ResStatus) (exc : Byte) : (s.setResult st exc).resStatus = st := rfl
@[simp] theorem State.setResult_resExc (st : ResStatus) (exc : Byte) : (s.setResult st exc).resExc = exc := rfl
@[simp] theorem State.setResult_illCmd (st : ResStatus) (exc : Byte) : (s.setResult st exc).illCmd = s.illCmd := rfl
@[simp] theorem State.setResult_rst (st : ResStatus) (exc : Byte) : (s.setResult st exc).rst = s.rst := rfl
@[simp] theorem State.setResult_txReady (st : ResStatus) (exc : Byte) : (s.setResult st exc).txReady = s.txReady := rfl
@[simp] theorem State.setResult_cmdQ (st : ResStatus) (exc : Byte) : (s.setResult st exc).cmdQ = s.cmdQ := rfl
@[simp] theorem State.setResult_portHeld (st : ResStatus) (exc : Byte) : (s.setResult st exc).portHeld = s.portHeld := rfl
@[simp] theorem State.setResult_rxQ (st : ResStatus) (exc : Byte) : (s.setResult st exc).rxQ = s.rxQ := rfl
@[simp] theorem State.setResult_turns (st : ResStatus) (exc : Byte) : (s.setResult st exc).turns = s.turns := rfl
@[simp] theorem State.setResult_epoch (st : ResStatus) (exc : Byte) : (s.setResult st exc).epoch = s.epoch := rfl
@[simp] theorem State.setResult_freeCount (st : ResStatus) (exc : Byte) : (s.setResult st exc).freeCount = s.freeCount := rfl
@[simp] theorem State.setResult_cmdWritten (st : ResStatus) (exc : Byte) : (s.setResult st exc).cmdWritten = s.cmdWritten := rfl
@[simp] theorem State.setResult_expWritten (st : ResStatus) (exc : Byte) : (s.setResult st exc).expWritten = s.expWritten := rfl
@[simp] theorem State.setResult_faultLog (st : ResStatus) (exc : Byte) : (s.setResult st exc).faultLog = s.faultLog := rfl

/-! ### `State.arm` -/

@[simp] theorem State.arm_encSt (es ef : Byte) : (s.arm es ef).encSt = s.encSt := rfl
@[simp] theorem State.arm_txIdx (es ef : Byte) : (s.arm es ef).txIdx = s.txIdx := rfl
@[simp] theorem State.arm_txLen (es ef : Byte) : (s.arm es ef).txLen = s.txLen := rfl
@[simp] theorem State.arm_txCrc (es ef : Byte) : (s.arm es ef).txCrc = s.txCrc := rfl
@[simp] theorem State.arm_encErr (es ef : Byte) : (s.arm es ef).encErr = s.encErr := rfl
@[simp] theorem State.arm_cmdOp (es ef : Byte) : (s.arm es ef).cmdOp = s.cmdOp := rfl
@[simp] theorem State.arm_cmdSlave (es ef : Byte) : (s.arm es ef).cmdSlave = s.cmdSlave := rfl
@[simp] theorem State.arm_cmdAddr (es ef : Byte) : (s.arm es ef).cmdAddr = s.cmdAddr := rfl
@[simp] theorem State.arm_cmdArg (es ef : Byte) : (s.arm es ef).cmdArg = s.cmdArg := rfl
@[simp] theorem State.arm_vbuf (es ef : Byte) : (s.arm es ef).vbuf = s.vbuf := rfl
@[simp] theorem State.arm_txOut (es ef : Byte) : (s.arm es ef).txOut = s.txOut := rfl
@[simp] theorem State.arm_decSt (es ef : Byte) : (s.arm es ef).decSt = .recv := rfl
@[simp] theorem State.arm_expSlave (es ef : Byte) : (s.arm es ef).expSlave = es := rfl
@[simp] theorem State.arm_expFunc (es ef : Byte) : (s.arm es ef).expFunc = ef := rfl
@[simp] theorem State.arm_rxbuf (es ef : Byte) : (s.arm es ef).rxbuf = s.rxbuf := rfl
@[simp] theorem State.arm_rxLen (es ef : Byte) : (s.arm es ef).rxLen = 0 := rfl
@[simp] theorem State.arm_rxOvf (es ef : Byte) : (s.arm es ef).rxOvf = false := rfl
@[simp] theorem State.arm_resStatus (es ef : Byte) : (s.arm es ef).resStatus = .none := rfl
@[simp] theorem State.arm_resExc (es ef : Byte) : (s.arm es ef).resExc = 0#8 := rfl
@[simp] theorem State.arm_illCmd (es ef : Byte) : (s.arm es ef).illCmd = s.illCmd := rfl
@[simp] theorem State.arm_rst (es ef : Byte) : (s.arm es ef).rst = s.rst := rfl
@[simp] theorem State.arm_txReady (es ef : Byte) : (s.arm es ef).txReady = s.txReady := rfl
@[simp] theorem State.arm_cmdQ (es ef : Byte) : (s.arm es ef).cmdQ = s.cmdQ := rfl
@[simp] theorem State.arm_portHeld (es ef : Byte) : (s.arm es ef).portHeld = s.portHeld := rfl
@[simp] theorem State.arm_rxQ (es ef : Byte) : (s.arm es ef).rxQ = s.rxQ := rfl
@[simp] theorem State.arm_turns (es ef : Byte) : (s.arm es ef).turns = s.turns := rfl
@[simp] theorem State.arm_epoch (es ef : Byte) : (s.arm es ef).epoch = s.epoch := rfl
@[simp] theorem State.arm_freeCount (es ef : Byte) : (s.arm es ef).freeCount = s.freeCount := rfl
@[simp] theorem State.arm_cmdWritten (es ef : Byte) : (s.arm es ef).cmdWritten = s.cmdWritten := rfl
@[simp] theorem State.arm_expWritten (es ef : Byte) : (s.arm es ef).expWritten = true := rfl
@[simp] theorem State.arm_faultLog (es ef : Byte) : (s.arm es ef).faultLog = s.faultLog := rfl

/-! ### `State.latchFrame` -/

@[simp] theorem State.latchFrame_encSt (op : ReqOp) (sl : Byte) (a g : Word16) : (s.latchFrame op sl a g).encSt = .send := rfl
@[simp] theorem State.latchFrame_txIdx (op : ReqOp) (sl : Byte) (a g : Word16) : (s.latchFrame op sl a g).txIdx = 0#8 := rfl
@[simp] theorem State.latchFrame_txLen (op : ReqOp) (sl : Byte) (a g : Word16) : (s.latchFrame op sl a g).txLen = BitVec.ofNat 8 (frameLen op g) := rfl
@[simp] theorem State.latchFrame_txCrc (op : ReqOp) (sl : Byte) (a g : Word16) : (s.latchFrame op sl a g).txCrc = Config.crcInit := rfl
@[simp] theorem State.latchFrame_encErr (op : ReqOp) (sl : Byte) (a g : Word16) : (s.latchFrame op sl a g).encErr = .none := rfl
@[simp] theorem State.latchFrame_cmdOp (op : ReqOp) (sl : Byte) (a g : Word16) : (s.latchFrame op sl a g).cmdOp = op := rfl
@[simp] theorem State.latchFrame_cmdSlave (op : ReqOp) (sl : Byte) (a g : Word16) : (s.latchFrame op sl a g).cmdSlave = sl := rfl
@[simp] theorem State.latchFrame_cmdAddr (op : ReqOp) (sl : Byte) (a g : Word16) : (s.latchFrame op sl a g).cmdAddr = a := rfl
@[simp] theorem State.latchFrame_cmdArg (op : ReqOp) (sl : Byte) (a g : Word16) : (s.latchFrame op sl a g).cmdArg = g := rfl
@[simp] theorem State.latchFrame_vbuf (op : ReqOp) (sl : Byte) (a g : Word16) : (s.latchFrame op sl a g).vbuf = s.vbuf := rfl
@[simp] theorem State.latchFrame_txOut (op : ReqOp) (sl : Byte) (a g : Word16) : (s.latchFrame op sl a g).txOut = s.txOut := rfl
@[simp] theorem State.latchFrame_decSt (op : ReqOp) (sl : Byte) (a g : Word16) : (s.latchFrame op sl a g).decSt = s.decSt := rfl
@[simp] theorem State.latchFrame_expSlave (op : ReqOp) (sl : Byte) (a g : Word16) : (s.latchFrame op sl a g).expSlave = s.expSlave := rfl
@[simp] theorem State.latchFrame_expFunc (op : ReqOp) (sl : Byte) (a g : Word16) : (s.latchFrame op sl a g).expFunc = s.expFunc := rfl
@[simp] theorem State.latchFrame_rxbuf (op : ReqOp) (sl : Byte) (a g : Word16) : (s.latchFrame op sl a g).rxbuf = s.rxbuf := rfl
@[simp] theorem State.latchFrame_rxLen (op : ReqOp) (sl : Byte) (a g : Word16) : (s.latchFrame op sl a g).rxLen = s.rxLen := rfl
@[simp] theorem State.latchFrame_rxOvf (op : ReqOp) (sl : Byte) (a g : Word16) : (s.latchFrame op sl a g).rxOvf = s.rxOvf := rfl
@[simp] theorem State.latchFrame_resStatus (op : ReqOp) (sl : Byte) (a g : Word16) : (s.latchFrame op sl a g).resStatus = s.resStatus := rfl
@[simp] theorem State.latchFrame_resExc (op : ReqOp) (sl : Byte) (a g : Word16) : (s.latchFrame op sl a g).resExc = s.resExc := rfl
@[simp] theorem State.latchFrame_illCmd (op : ReqOp) (sl : Byte) (a g : Word16) : (s.latchFrame op sl a g).illCmd = s.illCmd := rfl
@[simp] theorem State.latchFrame_rst (op : ReqOp) (sl : Byte) (a g : Word16) : (s.latchFrame op sl a g).rst = s.rst := rfl
@[simp] theorem State.latchFrame_txReady (op : ReqOp) (sl : Byte) (a g : Word16) : (s.latchFrame op sl a g).txReady = s.txReady := rfl
@[simp] theorem State.latchFrame_cmdQ (op : ReqOp) (sl : Byte) (a g : Word16) : (s.latchFrame op sl a g).cmdQ = s.cmdQ := rfl
@[simp] theorem State.latchFrame_portHeld (op : ReqOp) (sl : Byte) (a g : Word16) : (s.latchFrame op sl a g).portHeld = s.portHeld := rfl
@[simp] theorem State.latchFrame_rxQ (op : ReqOp) (sl : Byte) (a g : Word16) : (s.latchFrame op sl a g).rxQ = s.rxQ := rfl
@[simp] theorem State.latchFrame_turns (op : ReqOp) (sl : Byte) (a g : Word16) : (s.latchFrame op sl a g).turns = s.turns := rfl
@[simp] theorem State.latchFrame_epoch (op : ReqOp) (sl : Byte) (a g : Word16) : (s.latchFrame op sl a g).epoch = s.epoch := rfl
@[simp] theorem State.latchFrame_freeCount (op : ReqOp) (sl : Byte) (a g : Word16) : (s.latchFrame op sl a g).freeCount = s.freeCount := rfl
@[simp] theorem State.latchFrame_cmdWritten (op : ReqOp) (sl : Byte) (a g : Word16) : (s.latchFrame op sl a g).cmdWritten = true := rfl
@[simp] theorem State.latchFrame_expWritten (op : ReqOp) (sl : Byte) (a g : Word16) : (s.latchFrame op sl a g).expWritten = s.expWritten := rfl
@[simp] theorem State.latchFrame_faultLog (op : ReqOp) (sl : Byte) (a g : Word16) : (s.latchFrame op sl a g).faultLog = s.faultLog := rfl

/-! ### `State.sendByte` -/

@[simp] theorem State.sendByte_encSt (e : Emission) : (s.sendByte e).encSt = if e.last then .idle else s.encSt := rfl
@[simp] theorem State.sendByte_txIdx (e : Emission) : (s.sendByte e).txIdx = BitVec.ofNat 8 (s.txIdx.toNat + 1) := rfl
@[simp] theorem State.sendByte_txLen (e : Emission) : (s.sendByte e).txLen = s.txLen := rfl
@[simp] theorem State.sendByte_txCrc (e : Emission) : (s.sendByte e).txCrc = e.crc := rfl
@[simp] theorem State.sendByte_encErr (e : Emission) : (s.sendByte e).encErr = s.encErr := rfl
@[simp] theorem State.sendByte_cmdOp (e : Emission) : (s.sendByte e).cmdOp = s.cmdOp := rfl
@[simp] theorem State.sendByte_cmdSlave (e : Emission) : (s.sendByte e).cmdSlave = s.cmdSlave := rfl
@[simp] theorem State.sendByte_cmdAddr (e : Emission) : (s.sendByte e).cmdAddr = s.cmdAddr := rfl
@[simp] theorem State.sendByte_cmdArg (e : Emission) : (s.sendByte e).cmdArg = s.cmdArg := rfl
@[simp] theorem State.sendByte_vbuf (e : Emission) : (s.sendByte e).vbuf = s.vbuf := rfl
@[simp] theorem State.sendByte_txOut (e : Emission) : (s.sendByte e).txOut = s.txOut ++ [⟨e.byte, e.last⟩] := rfl
@[simp] theorem State.sendByte_decSt (e : Emission) : (s.sendByte e).decSt = s.decSt := rfl
@[simp] theorem State.sendByte_expSlave (e : Emission) : (s.sendByte e).expSlave = s.expSlave := rfl
@[simp] theorem State.sendByte_expFunc (e : Emission) : (s.sendByte e).expFunc = s.expFunc := rfl
@[simp] theorem State.sendByte_rxbuf (e : Emission) : (s.sendByte e).rxbuf = s.rxbuf := rfl
@[simp] theorem State.sendByte_rxLen (e : Emission) : (s.sendByte e).rxLen = s.rxLen := rfl
@[simp] theorem State.sendByte_rxOvf (e : Emission) : (s.sendByte e).rxOvf = s.rxOvf := rfl
@[simp] theorem State.sendByte_resStatus (e : Emission) : (s.sendByte e).resStatus = s.resStatus := rfl
@[simp] theorem State.sendByte_resExc (e : Emission) : (s.sendByte e).resExc = s.resExc := rfl
@[simp] theorem State.sendByte_illCmd (e : Emission) : (s.sendByte e).illCmd = s.illCmd := rfl
@[simp] theorem State.sendByte_rst (e : Emission) : (s.sendByte e).rst = s.rst := rfl
@[simp] theorem State.sendByte_txReady (e : Emission) : (s.sendByte e).txReady = s.txReady := rfl
@[simp] theorem State.sendByte_cmdQ (e : Emission) : (s.sendByte e).cmdQ = s.cmdQ := rfl
@[simp] theorem State.sendByte_portHeld (e : Emission) : (s.sendByte e).portHeld = s.portHeld := rfl
@[simp] theorem State.sendByte_rxQ (e : Emission) : (s.sendByte e).rxQ = s.rxQ := rfl
@[simp] theorem State.sendByte_turns (e : Emission) : (s.sendByte e).turns = s.turns := rfl
@[simp] theorem State.sendByte_epoch (e : Emission) : (s.sendByte e).epoch = s.epoch := rfl
@[simp] theorem State.sendByte_freeCount (e : Emission) : (s.sendByte e).freeCount = s.freeCount := rfl
@[simp] theorem State.sendByte_cmdWritten (e : Emission) : (s.sendByte e).cmdWritten = s.cmdWritten := rfl
@[simp] theorem State.sendByte_expWritten (e : Emission) : (s.sendByte e).expWritten = s.expWritten := rfl
@[simp] theorem State.sendByte_faultLog (e : Emission) : (s.sendByte e).faultLog = s.faultLog := rfl

/-! ### `State.resetStep` -/

@[simp] theorem State.resetStep_encSt : s.resetStep.encSt = State.reset.encSt := rfl
@[simp] theorem State.resetStep_txIdx : s.resetStep.txIdx = State.reset.txIdx := rfl
@[simp] theorem State.resetStep_txLen : s.resetStep.txLen = State.reset.txLen := rfl
@[simp] theorem State.resetStep_txCrc : s.resetStep.txCrc = State.reset.txCrc := rfl
@[simp] theorem State.resetStep_encErr : s.resetStep.encErr = State.reset.encErr := rfl
@[simp] theorem State.resetStep_cmdOp : s.resetStep.cmdOp = State.reset.cmdOp := rfl
@[simp] theorem State.resetStep_cmdSlave : s.resetStep.cmdSlave = State.reset.cmdSlave := rfl
@[simp] theorem State.resetStep_cmdAddr : s.resetStep.cmdAddr = State.reset.cmdAddr := rfl
@[simp] theorem State.resetStep_cmdArg : s.resetStep.cmdArg = State.reset.cmdArg := rfl
@[simp] theorem State.resetStep_vbuf : s.resetStep.vbuf = State.reset.vbuf := rfl
@[simp] theorem State.resetStep_txOut : s.resetStep.txOut = s.txOut := rfl
@[simp] theorem State.resetStep_decSt : s.resetStep.decSt = State.reset.decSt := rfl
@[simp] theorem State.resetStep_expSlave : s.resetStep.expSlave = State.reset.expSlave := rfl
@[simp] theorem State.resetStep_expFunc : s.resetStep.expFunc = State.reset.expFunc := rfl
@[simp] theorem State.resetStep_rxbuf : s.resetStep.rxbuf = State.reset.rxbuf := rfl
@[simp] theorem State.resetStep_rxLen : s.resetStep.rxLen = State.reset.rxLen := rfl
@[simp] theorem State.resetStep_rxOvf : s.resetStep.rxOvf = State.reset.rxOvf := rfl
@[simp] theorem State.resetStep_resStatus : s.resetStep.resStatus = State.reset.resStatus := rfl
@[simp] theorem State.resetStep_resExc : s.resetStep.resExc = State.reset.resExc := rfl
@[simp] theorem State.resetStep_illCmd : s.resetStep.illCmd = State.reset.illCmd := rfl
@[simp] theorem State.resetStep_rst : s.resetStep.rst = State.reset.rst := rfl
@[simp] theorem State.resetStep_txReady : s.resetStep.txReady = s.txReady := rfl
@[simp] theorem State.resetStep_cmdQ : s.resetStep.cmdQ = s.cmdQ := rfl
@[simp] theorem State.resetStep_portHeld : s.resetStep.portHeld = false := rfl
@[simp] theorem State.resetStep_rxQ : s.resetStep.rxQ = s.rxQ := rfl
@[simp] theorem State.resetStep_turns : s.resetStep.turns = s.turns := rfl
@[simp] theorem State.resetStep_epoch : s.resetStep.epoch = s.epoch + 1 := rfl
@[simp] theorem State.resetStep_freeCount : s.resetStep.freeCount = s.freeCount := rfl
@[simp] theorem State.resetStep_cmdWritten : s.resetStep.cmdWritten = State.reset.cmdWritten := rfl
@[simp] theorem State.resetStep_expWritten : s.resetStep.expWritten = State.reset.expWritten := rfl
@[simp] theorem State.resetStep_faultLog : s.resetStep.faultLog = s.faultLog := rfl

/-! ### `State.deliver` -/

@[simp] theorem State.deliver_encSt (v : ResStatus × Byte) : (s.deliver v).encSt = s.encSt := by simp only [State.deliver]; split <;> rfl
@[simp] theorem State.deliver_txIdx (v : ResStatus × Byte) : (s.deliver v).txIdx = s.txIdx := by simp only [State.deliver]; split <;> rfl
@[simp] theorem State.deliver_txLen (v : ResStatus × Byte) : (s.deliver v).txLen = s.txLen := by simp only [State.deliver]; split <;> rfl
@[simp] theorem State.deliver_txCrc (v : ResStatus × Byte) : (s.deliver v).txCrc = s.txCrc := by simp only [State.deliver]; split <;> rfl
@[simp] theorem State.deliver_encErr (v : ResStatus × Byte) : (s.deliver v).encErr = s.encErr := by simp only [State.deliver]; split <;> rfl
@[simp] theorem State.deliver_cmdOp (v : ResStatus × Byte) : (s.deliver v).cmdOp = s.cmdOp := by simp only [State.deliver]; split <;> rfl
@[simp] theorem State.deliver_cmdSlave (v : ResStatus × Byte) : (s.deliver v).cmdSlave = s.cmdSlave := by simp only [State.deliver]; split <;> rfl
@[simp] theorem State.deliver_cmdAddr (v : ResStatus × Byte) : (s.deliver v).cmdAddr = s.cmdAddr := by simp only [State.deliver]; split <;> rfl
@[simp] theorem State.deliver_cmdArg (v : ResStatus × Byte) : (s.deliver v).cmdArg = s.cmdArg := by simp only [State.deliver]; split <;> rfl
@[simp] theorem State.deliver_vbuf (v : ResStatus × Byte) : (s.deliver v).vbuf = s.vbuf := by simp only [State.deliver]; split <;> rfl
@[simp] theorem State.deliver_txOut (v : ResStatus × Byte) : (s.deliver v).txOut = s.txOut := by simp only [State.deliver]; split <;> rfl
@[simp] theorem State.deliver_decSt (v : ResStatus × Byte) : (s.deliver v).decSt = .done := by simp only [State.deliver]; split <;> rfl
@[simp] theorem State.deliver_expSlave (v : ResStatus × Byte) : (s.deliver v).expSlave = s.expSlave := by simp only [State.deliver]; split <;> rfl
@[simp] theorem State.deliver_expFunc (v : ResStatus × Byte) : (s.deliver v).expFunc = s.expFunc := by simp only [State.deliver]; split <;> rfl
@[simp] theorem State.deliver_rxbuf (v : ResStatus × Byte) : (s.deliver v).rxbuf = s.rxbuf := by simp only [State.deliver]; split <;> rfl
@[simp] theorem State.deliver_rxLen (v : ResStatus × Byte) : (s.deliver v).rxLen = s.rxLen := by simp only [State.deliver]; split <;> rfl
@[simp] theorem State.deliver_rxOvf (v : ResStatus × Byte) : (s.deliver v).rxOvf = s.rxOvf := by simp only [State.deliver]; split <;> rfl
@[simp] theorem State.deliver_illCmd (v : ResStatus × Byte) : (s.deliver v).illCmd = s.illCmd := by simp only [State.deliver]; split <;> rfl
@[simp] theorem State.deliver_rst (v : ResStatus × Byte) : (s.deliver v).rst = s.rst := by simp only [State.deliver]; split <;> rfl
@[simp] theorem State.deliver_txReady (v : ResStatus × Byte) : (s.deliver v).txReady = s.txReady := by simp only [State.deliver]; split <;> rfl
@[simp] theorem State.deliver_cmdQ (v : ResStatus × Byte) : (s.deliver v).cmdQ = s.cmdQ := by simp only [State.deliver]; split <;> rfl
@[simp] theorem State.deliver_portHeld (v : ResStatus × Byte) : (s.deliver v).portHeld = s.portHeld := by simp only [State.deliver]; split <;> rfl
@[simp] theorem State.deliver_rxQ (v : ResStatus × Byte) : (s.deliver v).rxQ = s.rxQ := by simp only [State.deliver]; split <;> rfl
@[simp] theorem State.deliver_turns (v : ResStatus × Byte) : (s.deliver v).turns = s.turns := by simp only [State.deliver]; split <;> rfl
@[simp] theorem State.deliver_epoch (v : ResStatus × Byte) : (s.deliver v).epoch = s.epoch := by simp only [State.deliver]; split <;> rfl
@[simp] theorem State.deliver_freeCount (v : ResStatus × Byte) : (s.deliver v).freeCount = s.freeCount := by simp only [State.deliver]; split <;> rfl
@[simp] theorem State.deliver_cmdWritten (v : ResStatus × Byte) : (s.deliver v).cmdWritten = s.cmdWritten := by simp only [State.deliver]; split <;> rfl
@[simp] theorem State.deliver_expWritten (v : ResStatus × Byte) : (s.deliver v).expWritten = s.expWritten := by simp only [State.deliver]; split <;> rfl

/-! ### `State.rxStore` -/

@[simp] theorem State.rxStore_encSt (b : Byte) : (s.rxStore b).encSt = s.encSt := by simp only [State.rxStore]; split <;> rfl
@[simp] theorem State.rxStore_txIdx (b : Byte) : (s.rxStore b).txIdx = s.txIdx := by simp only [State.rxStore]; split <;> rfl
@[simp] theorem State.rxStore_txLen (b : Byte) : (s.rxStore b).txLen = s.txLen := by simp only [State.rxStore]; split <;> rfl
@[simp] theorem State.rxStore_txCrc (b : Byte) : (s.rxStore b).txCrc = s.txCrc := by simp only [State.rxStore]; split <;> rfl
@[simp] theorem State.rxStore_encErr (b : Byte) : (s.rxStore b).encErr = s.encErr := by simp only [State.rxStore]; split <;> rfl
@[simp] theorem State.rxStore_cmdOp (b : Byte) : (s.rxStore b).cmdOp = s.cmdOp := by simp only [State.rxStore]; split <;> rfl
@[simp] theorem State.rxStore_cmdSlave (b : Byte) : (s.rxStore b).cmdSlave = s.cmdSlave := by simp only [State.rxStore]; split <;> rfl
@[simp] theorem State.rxStore_cmdAddr (b : Byte) : (s.rxStore b).cmdAddr = s.cmdAddr := by simp only [State.rxStore]; split <;> rfl
@[simp] theorem State.rxStore_cmdArg (b : Byte) : (s.rxStore b).cmdArg = s.cmdArg := by simp only [State.rxStore]; split <;> rfl
@[simp] theorem State.rxStore_vbuf (b : Byte) : (s.rxStore b).vbuf = s.vbuf := by simp only [State.rxStore]; split <;> rfl
@[simp] theorem State.rxStore_txOut (b : Byte) : (s.rxStore b).txOut = s.txOut := by simp only [State.rxStore]; split <;> rfl
@[simp] theorem State.rxStore_decSt (b : Byte) : (s.rxStore b).decSt = s.decSt := by simp only [State.rxStore]; split <;> rfl
@[simp] theorem State.rxStore_expSlave (b : Byte) : (s.rxStore b).expSlave = s.expSlave := by simp only [State.rxStore]; split <;> rfl
@[simp] theorem State.rxStore_expFunc (b : Byte) : (s.rxStore b).expFunc = s.expFunc := by simp only [State.rxStore]; split <;> rfl
@[simp] theorem State.rxStore_resStatus (b : Byte) : (s.rxStore b).resStatus = s.resStatus := by simp only [State.rxStore]; split <;> rfl
@[simp] theorem State.rxStore_resExc (b : Byte) : (s.rxStore b).resExc = s.resExc := by simp only [State.rxStore]; split <;> rfl
@[simp] theorem State.rxStore_illCmd (b : Byte) : (s.rxStore b).illCmd = s.illCmd := by simp only [State.rxStore]; split <;> rfl
@[simp] theorem State.rxStore_rst (b : Byte) : (s.rxStore b).rst = s.rst := by simp only [State.rxStore]; split <;> rfl
@[simp] theorem State.rxStore_txReady (b : Byte) : (s.rxStore b).txReady = s.txReady := by simp only [State.rxStore]; split <;> rfl
@[simp] theorem State.rxStore_cmdQ (b : Byte) : (s.rxStore b).cmdQ = s.cmdQ := by simp only [State.rxStore]; split <;> rfl
@[simp] theorem State.rxStore_portHeld (b : Byte) : (s.rxStore b).portHeld = s.portHeld := by simp only [State.rxStore]; split <;> rfl
@[simp] theorem State.rxStore_rxQ (b : Byte) : (s.rxStore b).rxQ = s.rxQ := by simp only [State.rxStore]; split <;> rfl
@[simp] theorem State.rxStore_turns (b : Byte) : (s.rxStore b).turns = s.turns := by simp only [State.rxStore]; split <;> rfl
@[simp] theorem State.rxStore_epoch (b : Byte) : (s.rxStore b).epoch = s.epoch := by simp only [State.rxStore]; split <;> rfl
@[simp] theorem State.rxStore_freeCount (b : Byte) : (s.rxStore b).freeCount = s.freeCount := by simp only [State.rxStore]; split <;> rfl
@[simp] theorem State.rxStore_cmdWritten (b : Byte) : (s.rxStore b).cmdWritten = s.cmdWritten := by simp only [State.rxStore]; split <;> rfl
@[simp] theorem State.rxStore_expWritten (b : Byte) : (s.rxStore b).expWritten = s.expWritten := by simp only [State.rxStore]; split <;> rfl
@[simp] theorem State.rxStore_faultLog (b : Byte) : (s.rxStore b).faultLog = s.faultLog := by simp only [State.rxStore]; split <;> rfl

/-! ### `State.noteUnwritten` -/

@[simp] theorem State.noteUnwritten_encSt : s.noteUnwritten.encSt = s.encSt := by simp only [State.noteUnwritten]; split <;> (try split) <;> rfl
@[simp] theorem State.noteUnwritten_txIdx : s.noteUnwritten.txIdx = s.txIdx := by simp only [State.noteUnwritten]; split <;> (try split) <;> rfl
@[simp] theorem State.noteUnwritten_txLen : s.noteUnwritten.txLen = s.txLen := by simp only [State.noteUnwritten]; split <;> (try split) <;> rfl
@[simp] theorem State.noteUnwritten_txCrc : s.noteUnwritten.txCrc = s.txCrc := by simp only [State.noteUnwritten]; split <;> (try split) <;> rfl
@[simp] theorem State.noteUnwritten_encErr : s.noteUnwritten.encErr = s.encErr := by simp only [State.noteUnwritten]; split <;> (try split) <;> rfl
@[simp] theorem State.noteUnwritten_cmdOp : s.noteUnwritten.cmdOp = s.cmdOp := by simp only [State.noteUnwritten]; split <;> (try split) <;> rfl
@[simp] theorem State.noteUnwritten_cmdSlave : s.noteUnwritten.cmdSlave = s.cmdSlave := by simp only [State.noteUnwritten]; split <;> (try split) <;> rfl
@[simp] theorem State.noteUnwritten_cmdAddr : s.noteUnwritten.cmdAddr = s.cmdAddr := by simp only [State.noteUnwritten]; split <;> (try split) <;> rfl
@[simp] theorem State.noteUnwritten_cmdArg : s.noteUnwritten.cmdArg = s.cmdArg := by simp only [State.noteUnwritten]; split <;> (try split) <;> rfl
@[simp] theorem State.noteUnwritten_vbuf : s.noteUnwritten.vbuf = s.vbuf := by simp only [State.noteUnwritten]; split <;> (try split) <;> rfl
@[simp] theorem State.noteUnwritten_txOut : s.noteUnwritten.txOut = s.txOut := by simp only [State.noteUnwritten]; split <;> (try split) <;> rfl
@[simp] theorem State.noteUnwritten_decSt : s.noteUnwritten.decSt = s.decSt := by simp only [State.noteUnwritten]; split <;> (try split) <;> rfl
@[simp] theorem State.noteUnwritten_expSlave : s.noteUnwritten.expSlave = s.expSlave := by simp only [State.noteUnwritten]; split <;> (try split) <;> rfl
@[simp] theorem State.noteUnwritten_expFunc : s.noteUnwritten.expFunc = s.expFunc := by simp only [State.noteUnwritten]; split <;> (try split) <;> rfl
@[simp] theorem State.noteUnwritten_rxbuf : s.noteUnwritten.rxbuf = s.rxbuf := by simp only [State.noteUnwritten]; split <;> (try split) <;> rfl
@[simp] theorem State.noteUnwritten_rxLen : s.noteUnwritten.rxLen = s.rxLen := by simp only [State.noteUnwritten]; split <;> (try split) <;> rfl
@[simp] theorem State.noteUnwritten_rxOvf : s.noteUnwritten.rxOvf = s.rxOvf := by simp only [State.noteUnwritten]; split <;> (try split) <;> rfl
@[simp] theorem State.noteUnwritten_resStatus : s.noteUnwritten.resStatus = s.resStatus := by simp only [State.noteUnwritten]; split <;> (try split) <;> rfl
@[simp] theorem State.noteUnwritten_resExc : s.noteUnwritten.resExc = s.resExc := by simp only [State.noteUnwritten]; split <;> (try split) <;> rfl
@[simp] theorem State.noteUnwritten_illCmd : s.noteUnwritten.illCmd = s.illCmd := by simp only [State.noteUnwritten]; split <;> (try split) <;> rfl
@[simp] theorem State.noteUnwritten_rst : s.noteUnwritten.rst = s.rst := by simp only [State.noteUnwritten]; split <;> (try split) <;> rfl
@[simp] theorem State.noteUnwritten_txReady : s.noteUnwritten.txReady = s.txReady := by simp only [State.noteUnwritten]; split <;> (try split) <;> rfl
@[simp] theorem State.noteUnwritten_cmdQ : s.noteUnwritten.cmdQ = s.cmdQ := by simp only [State.noteUnwritten]; split <;> (try split) <;> rfl
@[simp] theorem State.noteUnwritten_portHeld : s.noteUnwritten.portHeld = s.portHeld := by simp only [State.noteUnwritten]; split <;> (try split) <;> rfl
@[simp] theorem State.noteUnwritten_rxQ : s.noteUnwritten.rxQ = s.rxQ := by simp only [State.noteUnwritten]; split <;> (try split) <;> rfl
@[simp] theorem State.noteUnwritten_turns : s.noteUnwritten.turns = s.turns := by simp only [State.noteUnwritten]; split <;> (try split) <;> rfl
@[simp] theorem State.noteUnwritten_epoch : s.noteUnwritten.epoch = s.epoch := by simp only [State.noteUnwritten]; split <;> (try split) <;> rfl
@[simp] theorem State.noteUnwritten_freeCount : s.noteUnwritten.freeCount = s.freeCount := by simp only [State.noteUnwritten]; split <;> (try split) <;> rfl
@[simp] theorem State.noteUnwritten_cmdWritten : s.noteUnwritten.cmdWritten = s.cmdWritten := by simp only [State.noteUnwritten]; split <;> (try split) <;> rfl
@[simp] theorem State.noteUnwritten_expWritten : s.noteUnwritten.expWritten = s.expWritten := by simp only [State.noteUnwritten]; split <;> (try split) <;> rfl

/-! ### `State.takeWord` -/

@[simp] theorem State.takeWord_encSt (i : Instr) : (s.takeWord i).encSt = s.encSt := by simp only [State.takeWord]; split <;> rfl
@[simp] theorem State.takeWord_txIdx (i : Instr) : (s.takeWord i).txIdx = s.txIdx := by simp only [State.takeWord]; split <;> rfl
@[simp] theorem State.takeWord_txLen (i : Instr) : (s.takeWord i).txLen = s.txLen := by simp only [State.takeWord]; split <;> rfl
@[simp] theorem State.takeWord_txCrc (i : Instr) : (s.takeWord i).txCrc = s.txCrc := by simp only [State.takeWord]; split <;> rfl
@[simp] theorem State.takeWord_encErr (i : Instr) : (s.takeWord i).encErr = s.encErr := by simp only [State.takeWord]; split <;> rfl
@[simp] theorem State.takeWord_cmdOp (i : Instr) : (s.takeWord i).cmdOp = s.cmdOp := by simp only [State.takeWord]; split <;> rfl
@[simp] theorem State.takeWord_cmdSlave (i : Instr) : (s.takeWord i).cmdSlave = s.cmdSlave := by simp only [State.takeWord]; split <;> rfl
@[simp] theorem State.takeWord_cmdAddr (i : Instr) : (s.takeWord i).cmdAddr = s.cmdAddr := by simp only [State.takeWord]; split <;> rfl
@[simp] theorem State.takeWord_cmdArg (i : Instr) : (s.takeWord i).cmdArg = s.cmdArg := by simp only [State.takeWord]; split <;> rfl
@[simp] theorem State.takeWord_vbuf (i : Instr) : (s.takeWord i).vbuf = s.vbuf := by simp only [State.takeWord]; split <;> rfl
@[simp] theorem State.takeWord_txOut (i : Instr) : (s.takeWord i).txOut = s.txOut := by simp only [State.takeWord]; split <;> rfl
@[simp] theorem State.takeWord_decSt (i : Instr) : (s.takeWord i).decSt = s.decSt := by simp only [State.takeWord]; split <;> rfl
@[simp] theorem State.takeWord_expSlave (i : Instr) : (s.takeWord i).expSlave = s.expSlave := by simp only [State.takeWord]; split <;> rfl
@[simp] theorem State.takeWord_expFunc (i : Instr) : (s.takeWord i).expFunc = s.expFunc := by simp only [State.takeWord]; split <;> rfl
@[simp] theorem State.takeWord_rxbuf (i : Instr) : (s.takeWord i).rxbuf = s.rxbuf := by simp only [State.takeWord]; split <;> rfl
@[simp] theorem State.takeWord_rxLen (i : Instr) : (s.takeWord i).rxLen = s.rxLen := by simp only [State.takeWord]; split <;> rfl
@[simp] theorem State.takeWord_rxOvf (i : Instr) : (s.takeWord i).rxOvf = s.rxOvf := by simp only [State.takeWord]; split <;> rfl
@[simp] theorem State.takeWord_resStatus (i : Instr) : (s.takeWord i).resStatus = s.resStatus := by simp only [State.takeWord]; split <;> rfl
@[simp] theorem State.takeWord_resExc (i : Instr) : (s.takeWord i).resExc = s.resExc := by simp only [State.takeWord]; split <;> rfl
@[simp] theorem State.takeWord_illCmd (i : Instr) : (s.takeWord i).illCmd = s.illCmd := by simp only [State.takeWord]; split <;> rfl
@[simp] theorem State.takeWord_rst (i : Instr) : (s.takeWord i).rst = s.rst := by simp only [State.takeWord]; split <;> rfl
@[simp] theorem State.takeWord_txReady (i : Instr) : (s.takeWord i).txReady = s.txReady := by simp only [State.takeWord]; split <;> rfl
@[simp] theorem State.takeWord_rxQ (i : Instr) : (s.takeWord i).rxQ = s.rxQ := by simp only [State.takeWord]; split <;> rfl
@[simp] theorem State.takeWord_turns (i : Instr) : (s.takeWord i).turns = s.turns := by simp only [State.takeWord]; split <;> rfl
@[simp] theorem State.takeWord_epoch (i : Instr) : (s.takeWord i).epoch = s.epoch := by simp only [State.takeWord]; split <;> rfl
@[simp] theorem State.takeWord_freeCount (i : Instr) : (s.takeWord i).freeCount = s.freeCount := by simp only [State.takeWord]; split <;> rfl
@[simp] theorem State.takeWord_cmdWritten (i : Instr) : (s.takeWord i).cmdWritten = s.cmdWritten := by simp only [State.takeWord]; split <;> rfl
@[simp] theorem State.takeWord_expWritten (i : Instr) : (s.takeWord i).expWritten = s.expWritten := by simp only [State.takeWord]; split <;> rfl
@[simp] theorem State.takeWord_faultLog (i : Instr) : (s.takeWord i).faultLog = s.faultLog := by simp only [State.takeWord]; split <;> rfl

end Sys2Proof.Machine
end

