-- ==== Sys2Proof/Laws/Memory.lean ====
section
/-! SUPPORT. Read after write, and the canonical form of the stores. -/

namespace Sys2Proof.Machine

theorem Memory.lookup_write {w : Nat} (m : Memory w) (a b : Nat) (v : BitVec w) :
    Memory.lookup (Memory.write m a v) b = if b = a then some v else Memory.lookup m b := by
  induction m with
  | nil => simp [Memory.write, Memory.lookup, eq_comm]
  | cons c m ih =>
    obtain ⟨c, u⟩ := c
    simp only [Memory.write]
    split
    · simp only [Memory.lookup, eq_comm]
    · split
      · subst_vars; simp only [Memory.lookup, eq_comm]; split <;> rfl
      · simp only [Memory.lookup, ih]; split <;> split <;> first | rfl | omega

@[simp] theorem Memory.lookup_write_same {w : Nat} (m : Memory w) (a : Nat) (v : BitVec w) :
    Memory.lookup (Memory.write m a v) a = some v := by simp [Memory.lookup_write]

theorem Memory.lookup_write_other {w : Nat} (m : Memory w) {a b : Nat} (v : BitVec w) (h : b ≠ a) :
    Memory.lookup (Memory.write m a v) b = Memory.lookup m b := by simp [Memory.lookup_write, h]

theorem Memory.wfFrom_write {w size : Nat} (m : Memory w) (lo a : Nat) (v : BitVec w)
    (hm : Memory.wfFrom size lo m = true) (hlo : lo ≤ a) (ha : a < size) :
    Memory.wfFrom size lo (Memory.write m a v) = true := by
  induction m generalizing lo with
  | nil => simp [Memory.write, Memory.wfFrom, hlo, ha]
  | cons c m ih =>
    obtain ⟨c, u⟩ := c
    simp only [Memory.wfFrom, Bool.and_eq_true, decide_eq_true_eq] at hm
    simp only [Memory.write]
    split
    · simp only [Memory.wfFrom, Bool.and_eq_true, decide_eq_true_eq]
      exact ⟨⟨hlo, ha⟩, ⟨by omega, hm.1.2⟩, hm.2⟩
    · split
      · subst_vars; simp only [Memory.wfFrom, Bool.and_eq_true, decide_eq_true_eq]; exact ⟨hm.1, hm.2⟩
      · simp only [Memory.wfFrom, Bool.and_eq_true, decide_eq_true_eq]
        exact ⟨hm.1, ih (c + 1) hm.2 (by omega)⟩

/-- A write in range keeps the canonical form. -/
theorem Memory.wf_write {w size : Nat} (m : Memory w) (a : Nat) (v : BitVec w)
    (hm : Memory.wf size m = true) (ha : a < size) : Memory.wf size (Memory.write m a v) = true :=
  Memory.wfFrom_write m 0 a v hm (Nat.zero_le a) ha

theorem State.reset_vbuf_wf : Memory.wf Config.nVbuf State.reset.vbuf = true := rfl

theorem State.reset_rxbuf_wf : Memory.wf Config.maxAdu State.reset.rxbuf = true := rfl

/-- Storing a received byte keeps the canonical form of `RXBUF`. -/
theorem State.rxStore_wf (s : State) (b : Byte) (h : Memory.wf Config.maxAdu s.rxbuf = true) :
    Memory.wf Config.maxAdu (s.rxStore b).rxbuf = true := by
  unfold State.rxStore
  split
  · exact Memory.wf_write _ _ _ h ‹_›
  · exact h

/-- `VBUF.WR` in range keeps the canonical form of `VBUF`. -/
theorem State.vbufWrite_wf (s : State) (i : Word16) (v : Word16) (h : Memory.wf Config.nVbuf s.vbuf = true)
    (hi : indexOk i = true) : Memory.wf Config.nVbuf (s.vbufWrite i.toNat v).vbuf = true :=
  Memory.wf_write _ _ _ h (by simpa [indexOk] using hi)

theorem State.vbufRead_vbufWrite (s : State) (i j : Nat) (v : Word16) :
    (s.vbufWrite i v).vbufRead j = if j = i then v else s.vbufRead j := by
  simp only [State.vbufRead, State.vbufWrite, Memory.lookup_write]; split <;> rfl

end Sys2Proof.Machine
end

