-- ==== Sys2Proof/Laws/Ops.lean ====
section
/-! SUPPORT. What each shared operation can do, said once. -/

namespace Sys2Proof.Machine

theorem startFrame_ok {op : ReqOp} {g : Word16} (h : countOk op g = true) (sl : Byte) (a : Word16) (s : State) :
    startFrame op sl a g s = s.latchFrame op sl a g := by simp [startFrame, h]

theorem startFrame_bad {op : ReqOp} {g : Word16} (h : countOk op g = false) (sl : Byte) (a : Word16) (s : State) :
    startFrame op sl a g s = s.encFault .badCount := by simp [startFrame, h]

/-- A held or accepted encoder command (R80, R85). -/
theorem whenIdle_next {act : State → State} {s t : State} (h : whenIdle act s = .next t) :
    (s.encSt = .idle ∧ t = act s) ∨ (s.encSt = .send ∧ t = s) := by
  unfold whenIdle at h
  split at h
  · exact .inl ⟨‹_›, by simpa using h.symm⟩
  · refine .inr ⟨?_, by simpa using h.symm⟩
    cases hs : s.encSt <;> simp_all

/-- `ENC.EMIT` sends its emission, and stops only where there is none (R86). -/
theorem emit_next {s t : State} : emit s = .next t ↔ ∃ e, s.emission = some e ∧ t = s.noteUnwritten.sendByte e := by
  unfold emit
  cases h : s.emission <;> simp [eq_comm]

theorem emission_last {s : State} {e : Emission} (h : s.emission = some e) :
    e.last = decide (s.txIdx.toNat + 1 = s.txLen.toNat) := by
  unfold State.emission at h
  split at h
  · simp only [Option.map_eq_some_iff] at h
    obtain ⟨b, -, rfl⟩ := h
    exact (decide_eq_false (by omega)).symm
  · split at h
    · cases h; exact (decide_eq_false (by omega)).symm
    · split at h
      · cases h; exact (decide_eq_true ‹_›).symm
      · cases h

/-- The fault log after `ENC.EMIT` looks at the entry it reads: unchanged, or one record longer (R153). -/
theorem noteUnwritten_eq (s : State) :
    s.noteUnwritten = s ∨ ∃ k, s.vbufIndexRead = some k ∧ Memory.lookup s.vbuf k = none
      ∧ s.noteUnwritten = s.record (.vbufUnwritten k) := by
  unfold State.noteUnwritten
  split
  · split
    · exact .inr ⟨_, ‹_›, ‹_›, rfl⟩
    · exact .inl rfl
  · exact .inl rfl

theorem classify_exc (r : List Byte) (ovf : Bool) (es ef : Byte) :
    (classify r ovf es ef).1 ≠ .exceptionResponse → (classify r ovf es ef).2 = 0#8 := by
  unfold classify verdictExc verdictRh verdictWs verdictWm verdictId
  repeat' split
  all_goals simp

theorem classify_ne_none (r : List Byte) (ovf : Bool) (es ef : Byte) : (classify r ovf es ef).1 ≠ .none := by
  unfold classify verdictExc verdictRh verdictWs verdictWm verdictId
  repeat' split
  all_goals simp

/-- `DEC.END` writes the verdict it is given, and no other state but the log, when a code comes only with
`ExceptionResponse` (R102, R133). -/
theorem State.deliver_eq (v : ResStatus × Byte) (s : State) (h : v.1 ≠ .exceptionResponse → v.2 = 0#8) :
    s.deliver v = { s with
      resStatus := v.1, resExc := v.2, decSt := .done
      faultLog := if v.1 = .ok then s.faultLog else s.faultLog ++ [.parser v.1 v.2] } := by
  obtain ⟨st, exc⟩ := v
  unfold State.deliver State.parserFault
  cases st <;> simp_all [State.setResult, State.record]

/-- A row is selected only in `RECV`, on a frame that passes stages 1 to 3 (R104). -/
theorem parserSelect_some {s : State} {i : Instr} (h : parserSelect s = some i) :
    s.decSt = .recv ∧ frameAccepted s.rxFrame s.rxOvf s.expSlave = true
      ∧ decode (.response (rxByte s.rxFrame 1)) = .ok i
      ∧ ((rxByte s.rxFrame 1).getLsbD 7 = true ∨ rxByte s.rxFrame 1 = s.expFunc) := by
  unfold parserSelect at h
  split at h
  · split at h
    · split at h
      · cases h; exact ⟨‹_ ∧ _›.1, ‹_ ∧ _›.2, ‹_›, ‹_›⟩
      · cases h
    · cases h
  · cases h

end Sys2Proof.Machine
end

