-- ==== Sys2Proof/Laws/Frames.lean ====
section
/-! SUPPORT. Lengths and bytes of the request frames (R52 to R57). -/

namespace Sys2Proof.Machine

theorem frameBody_length (op : ReqOp) (s : Byte) (a g : Word16) (vb : Nat → Word16) :
    (frameBody op s a g vb).length + 2 = frameLen op g := by
  cases op <;> simp [frameBody, frameLen, be16Bytes, List.length_flatMap]
  omega

theorem frame_length (op : ReqOp) (s : Byte) (a g : Word16) (vb : Nat → Word16) :
    (frame op s a g vb).length = frameLen op g := by
  simp [frame, crcField, ← frameBody_length op s a g vb]

theorem countOk_wm {g : Word16} : countOk .wm g = true ↔ 1 ≤ g.toNat ∧ g.toNat ≤ 123 := by
  simp only [countOk, Bool.and_eq_true, decide_eq_true_eq]; rfl

theorem countOk_rh {g : Word16} : countOk .rh g = true ↔ 1 ≤ g.toNat ∧ g.toNat ≤ 125 := by
  simp only [countOk, Bool.and_eq_true, decide_eq_true_eq]; rfl

theorem frameLen_bounds {op : ReqOp} {g : Word16} (h : countOk op g = true) :
    4 ≤ frameLen op g ∧ frameLen op g ≤ 255 := by
  cases op <;> simp only [frameLen] <;> try omega
  have := countOk_wm.mp h
  omega

/-- `TX_LEN` holds the length of a legal frame without loss (R56). -/
theorem latchFrame_txLen_toNat {op : ReqOp} {g : Word16} (h : countOk op g = true) (sl : Byte) (a : Word16)
    (s : State) : (s.latchFrame op sl a g).txLen.toNat = frameLen op g := by
  have := frameLen_bounds h
  simp only [State.latchFrame_txLen, BitVec.toNat_ofNat]
  omega

/-- The value bytes of a WM body: entry `k` high byte first (R54). -/
theorem getElem?_values (vb : Nat → Word16) (n j : Nat) (h : j < 2 * n) :
    ((List.range n).flatMap (fun k => be16Bytes (vb k)))[j]?
      = some (if j % 2 = 0 then hi8 (vb (j / 2)) else lo8 (vb (j / 2))) := by
  induction n with
  | zero => omega
  | succ n ih =>
    rw [List.range_succ, List.flatMap_append]
    have hl : ((List.range n).flatMap (fun k => be16Bytes (vb k))).length = 2 * n := by
      simp [List.length_flatMap, be16Bytes, Nat.mul_comm]
    by_cases hj : j < 2 * n
    · rw [List.getElem?_append_left (by omega), ih hj]
    · rw [List.getElem?_append_right (by omega), hl]
      have : j = 2 * n ∨ j = 2 * n + 1 := by omega
      rcases this with rfl | rfl
      · simp [be16Bytes]
      · have e : (2 * n + 1) / 2 = n := by omega
        simp [be16Bytes, e, Nat.add_mod]

/-- What `ENC.EMIT` sends when `TX_LEN` fits the frame: the byte of the body at `TX_IDX`, then the two bytes of
`TX_CRC`, low byte first (R86). -/
theorem emission_eq {s : State} (hl : s.txLen.toNat = frameLen s.cmdOp s.cmdArg)
    (hi : s.txIdx.toNat < s.txLen.toNat) :
    s.emission = some
      ⟨(s.body ++ [lo8 s.txCrc, hi8 s.txCrc]).getD s.txIdx.toNat 0#8,
        decide (s.txIdx.toNat + 1 = s.txLen.toNat),
        if s.txIdx.toNat + 2 < s.txLen.toNat then crc16Update s.txCrc (s.body.getD s.txIdx.toNat 0#8) else s.txCrc⟩ := by
  have hb : s.body.length + 2 = s.txLen.toNat := by
    rw [hl]; exact frameBody_length _ _ _ _ _
  unfold State.emission
  by_cases h1 : s.txIdx.toNat + 2 < s.txLen.toNat
  · have hlt : s.txIdx.toNat < s.body.length := by omega
    have h3 : ¬ s.txIdx.toNat + 1 = s.txLen.toNat := by omega
    simp [h1, h3, List.getElem?_eq_getElem hlt, List.getD, List.getElem?_append_left hlt]
  · by_cases h2 : s.txIdx.toNat + 2 = s.txLen.toNat
    · have h3 : ¬ s.txIdx.toNat + 1 = s.txLen.toNat := by omega
      rw [if_neg h1, if_pos h2, if_neg h1, decide_eq_false h3, show s.txIdx.toNat = s.body.length by omega]
      simp [List.getD]
    · have h3 : s.txIdx.toNat + 1 = s.txLen.toNat := by omega
      rw [if_neg h1, if_neg h2, if_pos h3, if_neg h1, decide_eq_true h3,
        show s.txIdx.toNat = s.body.length + 1 by omega]
      simp [List.getD]

end Sys2Proof.Machine
end

