-- ==== Sys2Proof/Laws/Step.lean ====
section
/-! SUPPORT. What an instruction and a step can do, said once, and runs of the machine unfolded by one step. -/

namespace Sys2Proof.Machine

/-- Everything `exec i s` can answer as a next state. -/
inductive ExecEffect : Instr → State → State → Prop where
  /-- The guard is false: nothing changes (R7). -/
  | held (i : Instr) (s : State) (h : ready i s = false) : ExecEffect i s s
  /-- `DEC.END` outside `RECV` is recorded (R156, 93 U3). -/
  | heldEnd (s : State) (h : s.decSt ≠ .recv) : ExecEffect .decEnd s (s.record .decEndHeld)
  /-- A frame is started (R80). -/
  | started (op : ReqOp) (sl : Byte) (a g a' g' : Word16) (n : Nat) (s : State) (hi : s.encSt = .idle)
      (hc : countOk op g' = true) (hop : op ≠ .id → a' = a ∧ g' = g) :
      ExecEffect (encInstr op sl a g) s ({ s with freeCount := n }.latchFrame op sl a' g')
  /-- A count out of range (R80, R131). -/
  | badCount (op : ReqOp) (sl : Byte) (a g : Word16) (s : State) (hi : s.encSt = .idle) (hc : countOk op g = false) :
      ExecEffect (encInstr op sl a g) s (s.encFault .badCount)
  /-- `VBUF.WR` in range (R85). -/
  | vbufWritten (i v : Word16) (s : State) (hi : s.encSt = .idle) (hr : indexOk i = true) :
      ExecEffect (.vbufWr i v) s ((s.vbufWrite i.toNat v).setEncErr .none)
  /-- `VBUF.WR` out of range (R85, R131). -/
  | badIndex (i v : Word16) (s : State) (hi : s.encSt = .idle) (hr : indexOk i = false) :
      ExecEffect (.vbufWr i v) s (s.encFault .badIndex)
  /-- `DEC.ARM` (R100). -/
  | armed (es ef : Byte) (s : State) : ExecEffect (.decArm es ef) s (s.arm es ef)
  /-- `DEC.END` in `RECV`, or the response row the buffer selects (R102 to R113). -/
  | ended (i : Instr) (s : State) (hr : s.decSt = .recv) (hi : i = .decEnd ∨ parserSelect s = some i) :
      ExecEffect i s (s.deliver (classify s.rxFrame s.rxOvf s.expSlave s.expFunc))
  /-- `CMD.RSV` (R125). -/
  | reserved (s : State) : ExecEffect .cmdRsv s (State.record .reservedCommand { s with illCmd := true })
  /-- `ENC.EMIT` (R86). -/
  | emitted (op : ReqOp) (e : Emission) (s : State) (hr : emitReady op s = true) (he : s.emission = some e) :
      ExecEffect (reqInstr op) s (s.noteUnwritten.sendByte e)

theorem frameAccepted_iff (r : List Byte) (ovf : Bool) (es : Byte) :
    frameAccepted r ovf es = true ↔ ovf = false ∧ 4 ≤ r.length ∧ crcGood r = true ∧ rxByte r 0 = es := by
  simp only [frameAccepted, Bool.and_eq_true, Bool.not_eq_true', decide_eq_true_eq, beq_iff_eq, and_assoc]
  rfl

/-- The verdict of the selected row's layout is that of `Classify` (R104). -/
theorem classify_of_select {s : State} {i : Instr} {v : ResStatus × Byte} (h : parserSelect s = some i)
    (hv : (i = .rspRh ∧ v = verdictRh s.rxFrame) ∨ (i = .rspWs ∧ v = verdictWs s.rxFrame)
      ∨ (i = .rspWm ∧ v = verdictWm s.rxFrame) ∨ (i = .rspId ∧ v = verdictId s.rxFrame)
      ∨ ∃ fn, i = .rspExc fn ∧ v = verdictExc s.rxFrame) :
    v = classify s.rxFrame s.rxOvf s.expSlave s.expFunc := by
  obtain ⟨-, h2, h3, h4⟩ := parserSelect_some h
  obtain ⟨ho, hn, hc, he⟩ := (frameAccepted_iff _ _ _).mp h2
  unfold classify
  rw [if_neg (by simp [ho, Config.minFrame]; omega), if_neg (by simp [hc]), if_neg (by simp [he])]
  simp only [decode, decodeResponse] at h3
  by_cases e7 : (rxByte s.rxFrame 1).getLsbD 7 = true
  · rw [if_pos e7] at h3 ⊢
    cases h3
    simpa using hv
  · have h5 : rxByte s.rxFrame 1 = s.expFunc := h4.resolve_left e7
    rw [if_neg e7, h5] at h3
    rw [if_neg e7, if_neg (by simp [h5])]
    by_cases h03 : s.expFunc = Config.fcRh
    · rw [if_pos h03] at h3 ⊢; cases h3; simpa using hv
    rw [if_neg h03] at h3 ⊢
    by_cases h06 : s.expFunc = Config.fcWs
    · rw [if_pos h06] at h3 ⊢; cases h3; simpa using hv
    rw [if_neg h06] at h3 ⊢
    by_cases h10 : s.expFunc = Config.fcWm
    · rw [if_pos h10] at h3 ⊢; cases h3; simpa using hv
    rw [if_neg h10] at h3 ⊢
    by_cases h11 : s.expFunc = Config.fcId
    · rw [if_pos h11] at h3 ⊢; cases h3; simpa using hv
    · rw [if_neg h11] at h3; cases h3

theorem startFrame_effect {op : ReqOp} {sl : Byte} {a g : Word16} {s t : State}
    (h : whenIdle (startFrame op sl a g) s = .next t)
    (hr : ready (encInstr op sl a g) s = decide (s.encSt = .idle)) : ExecEffect (encInstr op sl a g) s t := by
  rcases whenIdle_next h with ⟨hi, rfl⟩ | ⟨hs, rfl⟩
  · cases hc : countOk op g with
    | true =>
      rw [startFrame_ok hc]
      exact .started op sl a g a g s.freeCount s hi hc (fun _ => ⟨rfl, rfl⟩)
    | false => rw [startFrame_bad hc]; exact .badCount op sl a g s hi hc
  · exact .held _ _ (by simp [hr, hs])

theorem request_effect {op : ReqOp} {s t : State} (h : (if emitReady op s then emit s else .next s) = .next t)
    (hr : ready (reqInstr op) s = emitReady op s) : ExecEffect (reqInstr op) s t := by
  cases hc : emitReady op s with
  | true =>
    rw [if_pos hc] at h
    obtain ⟨e, he, rfl⟩ := emit_next.mp h
    exact .emitted op e s hc he
  | false =>
    rw [if_neg (by simp [hc])] at h
    cases h
    exact .held _ _ (by rw [hr, hc])

theorem response_effect {i : Instr} {v : ResStatus × Byte} {s t : State}
    (h : (if parserSelect s = some i then .next (s.deliver v) else .next s : Host.Outcome State Fault Refusal) = .next t)
    (hr : ready i s = decide (parserSelect s = some i))
    (hv : parserSelect s = some i → v = classify s.rxFrame s.rxOvf s.expSlave s.expFunc) : ExecEffect i s t := by
  by_cases hc : parserSelect s = some i
  · rw [if_pos hc] at h
    cases h
    rw [hv hc]
    exact .ended i s (parserSelect_some hc).1 (.inr hc)
  · rw [if_neg hc] at h
    cases h
    exact .held _ _ (by simp [hr, hc])

/-- The inversion lemma of `exec`. -/
theorem exec_effect {i : Instr} {s t : State} (h : exec i s = .next t) : ExecEffect i s t := by
  cases i with
  | encRh sl a g => exact startFrame_effect (op := .rh) h rfl
  | encWs sl a g => exact startFrame_effect (op := .ws) h rfl
  | encWm sl a g => exact startFrame_effect (op := .wm) h rfl
  | encId sl =>
    simp only [exec, execEncId] at h
    rcases whenIdle_next h with ⟨hi, rfl⟩ | ⟨hs, rfl⟩
    · exact .started .id sl 0#16 0#16 _ _ _ s hi rfl (fun h => absurd rfl h)
    · exact .held _ _ (by simp [ready, hs])
  | decArm es ef => cases h; exact .armed es ef s
  | decEnd =>
    simp only [exec, execDecEnd] at h
    split at h <;> cases h
    · exact .ended _ s ‹_› (.inl rfl)
    · exact .heldEnd s ‹_›
  | vbufWr k v =>
    simp only [exec, execVbufWr] at h
    rcases whenIdle_next h with ⟨hi, rfl⟩ | ⟨hs, rfl⟩
    · cases hr : indexOk k with
      | true => exact .vbufWritten k v s hi hr
      | false => exact .badIndex k v s hi hr
    · exact .held _ _ (by simp [ready, hs])
  | cmdRsv => cases h; exact .reserved s
  | reqRh => exact request_effect (op := .rh) h rfl
  | reqWs => exact request_effect (op := .ws) h rfl
  | reqWm => exact request_effect (op := .wm) h rfl
  | reqId => exact request_effect (op := .id) h rfl
  | rspRh => exact response_effect h rfl (fun hs => classify_of_select hs (by simp))
  | rspWs => exact response_effect h rfl (fun hs => classify_of_select hs (by simp))
  | rspWm => exact response_effect h rfl (fun hs => classify_of_select hs (by simp))
  | rspId => exact response_effect h rfl (fun hs => classify_of_select hs (by simp))
  | rspExc fn => exact response_effect h rfl (fun hs => classify_of_select hs (by simp))

/-- What a request row can answer: held, or one byte sent (R86). -/
theorem exec_request {op : ReqOp} {s t : State} (h : exec (reqInstr op) s = .next t) :
    t = s ∨ ∃ e, emitReady op s = true ∧ s.emission = some e ∧ t = s.noteUnwritten.sendByte e := by
  have he : exec (reqInstr op) s = if emitReady op s then emit s else .next s := by cases op <;> rfl
  rw [he] at h
  split at h
  · obtain ⟨e, h1, h2⟩ := emit_next.mp h
    exact .inr ⟨e, ‹_›, h1, h2⟩
  · cases h; exact .inl rfl

/-- Taking back the word at the port moves the port only, and only when the word does not occupy it (R156). -/
theorem State.withdrawWord_eq (s : State) :
    s.withdrawWord = { s with cmdQ := if s.portHeld then s.cmdQ else s.cmdQ.tail } := by
  unfold State.withdrawWord
  split <;> rfl

/-- Everything a step can answer as a next state. -/
inductive StepEffect (s t : State) : Prop where
  /-- `RESET` (R150). -/
  | reset (h : s.rst = true) (ht : t = s.resetStep)
  /-- No turn is left, so nothing happens. -/
  | idle (h : s.rst = false) (hn : s.turns = []) (ht : t = s)
  /-- The host's turn with no command presented. -/
  | noCommand (ts : List Turn) (h : s.rst = false) (hn : s.turns = .host :: ts) (hq : s.cmdQ = [])
      (ht : t = { s with turns := ts })
  /-- The host's turn: the instruction at the port runs, and its word is taken if the guard holds. -/
  | command (ts : List Turn) (w : CmdWord) (ws : List CmdWord) (i : Instr) (h : s.rst = false)
      (hn : s.turns = .host :: ts) (hq : s.cmdQ = w :: ws) (hw : i = commandInstr w s)
      (ht : ExecEffect i { s with turns := ts, cmdQ := if ready i s then ws else w :: ws, portHeld := !ready i s } t)
  /-- The encoder's turn: held, or one byte sent. -/
  | encoder (ts : List Turn) (h : s.rst = false) (hn : s.turns = .enc :: ts)
      (ht : t = { s with turns := ts } ∨ ∃ e, s.encSt = .send ∧ s.txReady = true ∧ s.emission = some e
        ∧ t = State.sendByte e (State.noteUnwritten { s with turns := ts }))
  /-- The link's turn with nothing to deliver. -/
  | noByte (ts : List Turn) (h : s.rst = false) (hn : s.turns = .link :: ts) (hq : s.rxQ = [])
      (ht : t = { s with turns := ts })
  /-- The link delivers a byte (R101, R103). -/
  | byte (ts : List Turn) (b : Byte) (bs : List Byte) (h : s.rst = false) (hn : s.turns = .link :: ts)
      (hq : s.rxQ = b :: bs) (ht : t = decByte b { s with turns := ts, rxQ := bs })
  /-- The host takes its word back, or the port holds it (R156). -/
  | withdrawn (ts : List Turn) (h : s.rst = false) (hn : s.turns = .withdraw :: ts)
      (ht : t = { s with turns := ts, cmdQ := if s.portHeld then s.cmdQ else s.cmdQ.tail })
  /-- The link drives `tx_ready`. -/
  | txReady (ts : List Turn) (level : Bool) (h : s.rst = false) (hn : s.turns = .setTxReady level :: ts)
      (ht : t = { s with turns := ts, txReady := level })
  /-- `rst` is raised. -/
  | raised (ts : List Turn) (h : s.rst = false) (hn : s.turns = .raiseRst :: ts)
      (ht : t = { s with turns := ts, rst := true })

theorem step_command {s : State} {ts : List Turn} {w : CmdWord} {ws : List CmdWord} (h : s.rst = false)
    (hn : s.turns = .host :: ts) (hq : s.cmdQ = w :: ws) :
    step s = exec (commandInstr w s)
      { s with
        turns := ts, cmdQ := if ready (commandInstr w s) s then ws else w :: ws
        portHeld := !ready (commandInstr w s) s } := by
  have hf : fetch s = fetchTurn .host { s with turns := ts } := by
    unfold fetch
    rw [if_neg (by simp [h]), hn]
  have hp : portInstr { s with turns := ts } = some (commandInstr w s) := by
    unfold portInstr
    simp only [hq]
    rfl
  have hr : ready (commandInstr w s) { s with turns := ts } = ready (commandInstr w s) s := by
    cases commandInstr w s <;> rfl
  have ht : State.takeWord (commandInstr w s) { s with turns := ts }
      = { s with
        turns := ts, cmdQ := if ready (commandInstr w s) s then ws else w :: ws
        portHeld := !ready (commandInstr w s) s } := by
    unfold State.takeWord
    rw [hr]
    cases ready (commandInstr w s) s
    · simp [← hq]
    · simp [hq]
  rw [step, hf, ← ht]
  unfold fetchTurn
  simp only [hp]
  rfl

/-- A step with a turn left and `rst` low is the event of that turn. -/
theorem step_turn {s : State} {u : Turn} {ts : List Turn} (h : s.rst = false) (hn : s.turns = u :: ts) :
    step s = runFetched (fetchTurn u { s with turns := ts }) := by
  have hf : fetch s = fetchTurn u { s with turns := ts } := by
    unfold fetch
    rw [if_neg (by simp [h]), hn]
  rw [step, hf]

theorem step_encoder {s : State} {ts : List Turn} (h : s.rst = false) (hn : s.turns = .enc :: ts) :
    step s = exec (reqInstr s.cmdOp) { s with turns := ts } := step_turn h hn

theorem step_noCommand {s : State} {ts : List Turn} (h : s.rst = false) (hn : s.turns = .host :: ts)
    (hq : s.cmdQ = []) : step s = .next { s with turns := ts } := by
  have hp : portInstr { s with turns := ts } = none := by
    unfold portInstr
    simp only [hq]
  rw [step_turn h hn]
  unfold fetchTurn
  simp only [hp]
  rfl

theorem step_withdraw {s : State} {ts : List Turn} (h : s.rst = false) (hn : s.turns = .withdraw :: ts) :
    step s = .next { s with turns := ts, cmdQ := if s.portHeld then s.cmdQ else s.cmdQ.tail } := by
  rw [step_turn h hn, fetchTurn, State.withdrawWord_eq]
  rfl

theorem step_byte {s : State} {ts : List Turn} {b : Byte} {bs : List Byte} (h : s.rst = false)
    (hn : s.turns = .link :: ts) (hq : s.rxQ = b :: bs) :
    step s = .next (decByte b { s with turns := ts, rxQ := bs }) := by
  rw [step_turn h hn]
  unfold fetchTurn
  simp only [hq]
  rfl

theorem step_noByte {s : State} {ts : List Turn} (h : s.rst = false) (hn : s.turns = .link :: ts)
    (hq : s.rxQ = []) : step s = .next { s with turns := ts } := by
  rw [step_turn h hn]
  unfold fetchTurn
  simp only [hq]
  rfl

/-- The inversion lemma of `step`. -/
theorem step_effect {s t : State} (h : step s = .next t) : StepEffect s t := by
  cases hr : s.rst with
  | true =>
    have hf : fetch s = .other s.resetStep := by unfold fetch; rw [if_pos hr]
    rw [step, hf] at h
    cases h; exact .reset hr rfl
  | false =>
    cases hn : s.turns with
    | nil =>
      have hf : fetch s = .other s := by unfold fetch; rw [if_neg (by simp [hr])]; simp only [hn]
      rw [step, hf] at h
      cases h; exact .idle hr hn rfl
    | cons u ts =>
      cases u with
      | host =>
        cases hq : s.cmdQ with
        | nil => rw [step_noCommand hr hn hq] at h; cases h; exact .noCommand ts hr hn hq rfl
        | cons w ws =>
          rw [step_command hr hn hq] at h
          exact .command ts w ws _ hr hn hq rfl (exec_effect h)
      | enc =>
        rw [step_encoder hr hn] at h
        refine .encoder ts hr hn ((exec_request h).imp_right ?_)
        rintro ⟨e, h1, h2, h3⟩
        simp only [emitReady, Bool.and_eq_true, decide_eq_true_eq] at h1
        exact ⟨e, h1.1.1, h1.1.2, h2, h3⟩
      | link =>
        cases hq : s.rxQ with
        | nil => rw [step_noByte hr hn hq] at h; cases h; exact .noByte ts hr hn hq rfl
        | cons b bs => rw [step_byte hr hn hq] at h; cases h; exact .byte ts b bs hr hn hq rfl
      | withdraw => rw [step_withdraw hr hn] at h; cases h; exact .withdrawn ts hr hn rfl
      | setTxReady level => rw [step_turn hr hn] at h; cases h; exact .txReady ts level hr hn rfl
      | raiseRst => rw [step_turn hr hn] at h; cases h; exact .raised ts hr hn rfl

/-! ### Runs -/

theorem run_next (n : Nat) {s t : State} (h : step s = .next t) : core.run (n + 1) s = core.run n t := by
  have h' : core.step s = .next t := h
  refine (Host.Core.run.eq_2 core s n).trans ?_
  rw [h']

theorem run_stop (n : Nat) {s : State} (h : ∀ t, step s ≠ .next t) (t : State) : core.run (n + 1) s ≠ .next t := by
  intro hc
  have hc := (Host.Core.run.eq_2 core s n).symm.trans hc
  cases hs : core.step s with
  | next u => exact absurd hs (h u)
  | fault r => rw [hs] at hc; cases hc
  | refused r => rw [hs] at hc; cases hc

theorem run_one (s : State) : core.run 1 s = step s := by
  refine (Host.Core.run.eq_2 core s 0).trans ?_
  change _ = core.step s
  cases core.step s <;> rfl

/-- A run can also be unfolded at its end. -/
theorem run_append_step (n : Nat) (s t : State) (h : core.run n s = .next t) : core.run (n + 1) s = step t := by
  induction n generalizing s with
  | zero => cases h; exact run_one t
  | succ n ih =>
    by_cases hs : ∃ u, step s = .next u
    · obtain ⟨u, hu⟩ := hs
      rw [run_next n hu] at h
      rw [run_next (n + 1) hu]
      exact ih u h
    · exact absurd h (run_stop n (fun u hu => hs ⟨u, hu⟩) t)

/-- An invariant that every step keeps holds along every run. -/
theorem run_keeps {P : State → Prop} (hP : ∀ s t, P s → step s = .next t → P t) (n : Nat) {s t : State} (hs : P s)
    (h : core.run n s = .next t) : P t := by
  induction n generalizing s with
  | zero => cases h; exact hs
  | succ n ih =>
    by_cases hx : ∃ u, step s = .next u
    · obtain ⟨u, hu⟩ := hx
      rw [run_next n hu] at h
      exact ih (hP s u hs hu) h
    · exact absurd h (run_stop n (fun u hu => hx ⟨u, hu⟩) t)

end Sys2Proof.Machine
end

