-- ==== Sys2Proof/Laws/Crc.lean ====
section
/-! SUPPORT. The CRC step is injective in each argument, and what the two CRC bytes do to it (R71 to R74). -/

namespace Sys2Proof.Machine

/-- The bits of one iteration: bit 0 comes in at the top, every other bit moves down by one. -/
theorem crcShift_bits (c : Word16) : (crcShift c).getLsbD 15 = c.getLsbD 0 ∧
    ∀ i, i < 15 → (crcShift c).getLsbD i = (c.getLsbD (i + 1) ^^ (c.getLsbD 0 && (0xA001#16).getLsbD i)) := by
  unfold crcShift Config.crcPoly
  split
  · rename_i h0
    refine ⟨by simp [h0], fun i _ => ?_⟩
    simp only [BitVec.getLsbD_xor, BitVec.getLsbD_ushiftRight, h0, Bool.true_and, Nat.add_comm]
  · rename_i h0
    rw [Bool.not_eq_true] at h0
    refine ⟨by rw [h0]; simp, fun i _ => ?_⟩
    rw [h0]
    simp [Nat.add_comm]

theorem crcShift_injective {c d : Word16} (h : crcShift c = crcShift d) : c = d := by
  have h0 : c.getLsbD 0 = d.getLsbD 0 := by rw [← (crcShift_bits c).1, ← (crcShift_bits d).1, h]
  apply BitVec.eq_of_getLsbD_eq
  intro i hi
  rcases i with _ | i
  · exact h0
  · have a := (crcShift_bits c).2 i (by omega)
    have b := (crcShift_bits d).2 i (by omega)
    rw [h, b, h0] at a
    revert a
    generalize (d.getLsbD 0 && _) = z
    cases z <;> simp [eq_comm]

theorem crc16Update_xor {c d : Word16} {b b' : Byte} (h : crc16Update c b = crc16Update d b') :
    c ^^^ b.setWidth 16 = d ^^^ b'.setWidth 16 := by
  unfold crc16Update at h
  iterate 8 replace h := crcShift_injective h
  exact h

theorem crc16Update_injective {c d : Word16} {b : Byte} (h : crc16Update c b = crc16Update d b) : c = d := by
  have := congrArg (· ^^^ b.setWidth 16) (crc16Update_xor h)
  simpa [BitVec.xor_assoc] using this

theorem crc16Update_injective_byte {c : Word16} {b b' : Byte} (h : crc16Update c b = crc16Update c b') : b = b' := by
  have := congrArg (c ^^^ ·) (crc16Update_xor h)
  simp only [← BitVec.xor_assoc, BitVec.xor_self, BitVec.zero_xor] at this
  simpa using congrArg (BitVec.setWidth 8) this

/-- Different CRC registers stay different over the same bytes. -/
theorem foldl_crc16Update_injective (l : List Byte) {c d : Word16}
    (h : l.foldl crc16Update c = l.foldl crc16Update d) : c = d := by
  induction l generalizing c d with
  | nil => exact h
  | cons b l ih => exact crc16Update_injective (ih h)

theorem crc16_append (l m : List Byte) : crc16 (l ++ m) = m.foldl crc16Update (crc16 l) := by
  simp [crc16, List.foldl_append]

/-- The running CRC of the encoder (R87). -/
theorem crc16_take_succ (l : List Byte) (i : Nat) (b : Byte) (h : l[i]? = some b) :
    crc16Update (crc16 (l.take i)) b = crc16 (l.take (i + 1)) := by
  rw [List.take_add_one, h]
  simp [crc16, List.foldl_append]

theorem getLsbD_be16 (h l : Byte) (i : Nat) :
    (be16 h l).getLsbD i = if i < 8 then l.getLsbD i else h.getLsbD (i - 8) :=
  BitVec.getLsbD_append

@[simp] theorem lo8_be16 (h l : Byte) : lo8 (be16 h l) = l := by
  apply BitVec.eq_of_getLsbD_eq
  intro i hi
  rw [lo8, BitVec.getLsbD_extractLsb', getLsbD_be16, Nat.zero_add, if_pos hi]
  simp [hi]

@[simp] theorem hi8_be16 (h l : Byte) : hi8 (be16 h l) = h := by
  apply BitVec.eq_of_getLsbD_eq
  intro i hi
  rw [hi8, BitVec.getLsbD_extractLsb', getLsbD_be16, if_neg (by omega), Nat.add_sub_cancel_left]
  simp [hi]

@[simp] theorem be16_hi8_lo8 (v : Word16) : be16 (hi8 v) (lo8 v) = v := by
  apply BitVec.eq_of_getLsbD_eq
  intro i hi
  rw [getLsbD_be16]
  split
  · simp [lo8, *]
  · simp only [hi8, BitVec.getLsbD_extractLsb', show i - 8 < 8 by omega, decide_true, Bool.true_and,
      show 8 + (i - 8) = i by omega]

/-- Feeding the low byte of the register to itself shifts the register down by eight. -/
theorem crc16Update_lo8 (c : Word16) : crc16Update c (lo8 c) = (hi8 c).setWidth 16 := by
  have low : ∀ i, i < 8 → (c ^^^ (lo8 c).setWidth 16).getLsbD i = false := by
    intro i hi
    simp [lo8, hi, show i < 16 by omega]
  have even : ∀ d : Word16, d.getLsbD 0 = false → crcShift d = d >>> 1 :=
    fun d h => if_neg (by rw [h]; exact Bool.false_ne_true)
  unfold crc16Update
  generalize hx : c ^^^ (lo8 c).setWidth 16 = x at low
  have next : ∀ d : Word16, (∀ i, i < 8 → d.getLsbD i = false) →
      crcShift (crcShift (crcShift (crcShift (crcShift (crcShift (crcShift (crcShift d))))))) = d >>> 8 := by
    intro d hd
    rw [even d (hd 0 (by omega)), even (d >>> 1), even (d >>> 1 >>> 1), even (d >>> 1 >>> 1 >>> 1),
      even (d >>> 1 >>> 1 >>> 1 >>> 1), even (d >>> 1 >>> 1 >>> 1 >>> 1 >>> 1),
      even (d >>> 1 >>> 1 >>> 1 >>> 1 >>> 1 >>> 1), even (d >>> 1 >>> 1 >>> 1 >>> 1 >>> 1 >>> 1 >>> 1)]
    · simp only [← BitVec.shiftRight_add]
    all_goals simp only [BitVec.getLsbD_ushiftRight]; exact hd _ (by omega)
  rw [next x low]
  subst hx
  apply BitVec.eq_of_getLsbD_eq
  intro i hi
  rw [BitVec.getLsbD_ushiftRight, BitVec.getLsbD_xor, BitVec.getLsbD_setWidth, BitVec.getLsbD_setWidth, lo8, hi8,
    BitVec.getLsbD_extractLsb', BitVec.getLsbD_extractLsb']
  by_cases h8 : i < 8
  · simp [h8, hi]
  · simp [h8]
    exact BitVec.getLsbD_of_ge c (8 + i) (by omega)

/-- Two bytes bring the register to 0 exactly when they are its own bytes, low byte first. -/
theorem crc16Update_twice_eq_zero (c : Word16) (lo hi : Byte) :
    crc16Update (crc16Update c lo) hi = 0#16 ↔ c = be16 hi lo := by
  have self : ∀ b : Byte, crc16Update (b.setWidth 16) b = 0#16 := by
    intro b
    unfold crc16Update
    rw [BitVec.xor_self]
    rfl
  have good : crc16Update (crc16Update (be16 hi lo) lo) hi = 0#16 := by
    have := crc16Update_lo8 (be16 hi lo)
    rw [lo8_be16, hi8_be16] at this
    rw [this, self]
  constructor
  · exact fun h => crc16Update_injective (crc16Update_injective (h.trans good.symm))
  · rintro rfl; exact good

end Sys2Proof.Machine
end

