-- ==== Sys2Proof/Laws/Parser.lean ====
section
/-! SUPPORT. The received bytes, the row they select, and the verdict delivered (R101 to R113). -/

namespace Sys2Proof.Machine

@[simp] theorem State.rxFrame_length (s : State) : s.rxFrame.length = s.rxLen.val := by simp [State.rxFrame]

theorem State.rxRead_rxStore (s : State) (b : Byte) (i : Nat) (h : s.rxLen.val < 256) :
    (s.rxStore b).rxRead i = if i = s.rxLen.val then b else s.rxRead i := by
  unfold State.rxStore
  rw [dif_pos h]
  simp only [State.rxRead, Memory.lookup_write]
  split <;> rfl

/-- A byte stored extends the received sequence by that byte (R101). -/
theorem State.rxFrame_rxStore (s : State) (b : Byte) (h : s.rxLen.val < 256) :
    (s.rxStore b).rxFrame = s.rxFrame ++ [b] := by
  have hl : (s.rxStore b).rxLen.val = s.rxLen.val + 1 := by unfold State.rxStore; rw [dif_pos h]
  unfold State.rxFrame
  rw [hl, List.range_succ, List.map_append]
  congr 1
  · apply List.map_congr_left
    intro i hi
    rw [List.mem_range] at hi
    rw [s.rxRead_rxStore b i h, if_neg (by omega)]
  · simp [s.rxRead_rxStore b _ h]

theorem rxByte_rxFrame (s : State) (i : Nat) (h : i < s.rxLen.val) : rxByte s.rxFrame i = s.rxRead i := by
  simp [rxByte, State.rxFrame, h]

/-- A sequence of at least two bytes is its body and its last two bytes (R48). -/
theorem body_append_crc (r : List Byte) (h : 2 ≤ r.length) :
    r.take (r.length - 2) ++ [rxByte r (r.length - 2), rxByte r (r.length - 1)] = r := by
  obtain ⟨n, hn⟩ : ∃ n, r.length = n + 2 := ⟨r.length - 2, by omega⟩
  have h1 : r.drop n = [rxByte r n, rxByte r (n + 1)] := by
    rw [List.drop_eq_getElem_cons (by omega), List.drop_eq_getElem_cons (by omega), List.drop_eq_nil_of_le (by omega)]
    simp [rxByte, List.getElem?_eq_getElem (show n < r.length by omega),
      List.getElem?_eq_getElem (show n + 1 < r.length by omega)]
  rw [hn, Nat.add_sub_cancel, show n + 2 - 1 = n + 1 by omega, ← h1, List.take_append_drop]

/-- A frame that passes stages 1 to 3 with a function byte of a row selects the row, if it is an exception response or
that of `EXP_FUNC` (R104). -/
theorem parserSelect_of_holdsFrame {s : State} {fn : Byte} {i : Instr} (h : HoldsFrame s fn)
    (hd : decode (.response fn) = .ok i) (he : fn.getLsbD 7 = true ∨ fn = s.expFunc) : parserSelect s = some i := by
  obtain ⟨h1, h2, h3, h4, h5, h6⟩ := h
  unfold parserSelect
  rw [if_pos ⟨h1, (frameAccepted_iff _ _ _).mpr ⟨h2, by simpa using h3, h4, h5⟩⟩, h6, hd]
  exact if_pos he

/-- The row a buffer selects is a response row, and its guard holds. -/
theorem parserSelect_ready {s : State} {i : Instr} (h : parserSelect s = some i) : ready i s = true := by
  have hd := (parserSelect_some h).2.2.1
  simp only [decode, decodeResponse] at hd
  repeat' split at hd
  all_goals cases hd
  all_goals simp [ready, h]

/-- The instruction at the port is the decoded command, or the row that `DEC.END` selects. -/
theorem commandInstr_eq (w : CmdWord) (s : State) :
    (decodeCommand w = .decEnd ∧ commandInstr w s = (parserSelect s).getD .decEnd)
      ∨ (decodeCommand w ≠ .decEnd ∧ commandInstr w s = decodeCommand w) := by
  unfold commandInstr
  cases h : decodeCommand w <;> simp

/-- The command port never runs a request row. -/
theorem commandInstr_ne_request (w : CmdWord) (s : State) (op : ReqOp) : commandInstr w s ≠ reqInstr op := by
  intro hw
  rcases commandInstr_eq w s with ⟨-, h2⟩ | ⟨-, h2⟩
  · rw [h2] at hw
    cases hp : parserSelect s with
    | none => rw [hp] at hw; cases op <;> cases hw
    | some j =>
      rw [hp] at hw
      have hd := (parserSelect_some hp).2.2.1
      simp only [decode, decodeResponse] at hd
      repeat' split at hd
      all_goals cases hd
      all_goals cases op <;> cases hw
  · rw [h2] at hw
    unfold decodeCommand at hw
    repeat' split at hw
    all_goals cases op <;> cases hw

/-- A response row, or `DEC.END` itself, runs at the port only for a word that decodes to `DEC.END`. -/
theorem decode_of_ended {w : CmdWord} {s : State}
    (h : commandInstr w s = .decEnd ∨ parserSelect s = some (commandInstr w s)) :
    decode (.command w) = .ok .decEnd := by
  rcases commandInstr_eq w s with ⟨h1, -⟩ | ⟨h1, h2⟩
  · simp [decode, h1]
  · exfalso
    rw [h2] at h
    have hd := (parserSelect_some (h.resolve_left h1)).2.2.1
    simp only [decode, decodeResponse] at hd
    generalize hx : decodeCommand w = i at hd
    unfold decodeCommand at hx
    repeat' split at hd
    all_goals cases hd
    all_goals (repeat' split at hx)
    all_goals cases hx

theorem portInstr_cons {s : State} {w : CmdWord} {ws : List CmdWord} (hq : s.cmdQ = w :: ws) :
    portInstr s = some (commandInstr w s) := by
  unfold portInstr
  rw [hq]

/-- Where `DEC.END` answers `Ok` or `Malformed`, `RES_EXC` is 0 (R133). -/
theorem deliver_plain {s : State} {v : ResStatus × Byte} (h : v = (.ok, 0#8) ∨ v = (.malformed, 0#8)) :
    s.deliver v = { s with
      resStatus := v.1, resExc := 0#8, decSt := .done
      faultLog := if v.1 = .ok then s.faultLog else s.faultLog ++ [.parser v.1 0#8] } := by
  rcases h with rfl | rfl <;> rfl

theorem odd_bit (b : Byte) : b.getLsbD 0 = false ↔ b.toNat % 2 = 0 := by
  rw [← BitVec.testBit_toNat, Nat.testBit_zero]
  simp

end Sys2Proof.Machine
end

