-- ==== Sys2Proof/Laws/PerInstr.lean ====
section
/-! SUPPORT. Per-instruction laws. `RowMatch`: the encoding of a well-formed instruction carries the match bits of its
row of the opcode table under the row's mask (R46, R49). -/

namespace Sys2Proof.Laws.RowMatch

/-- The word on the wire as a number. -/
def bits : Wire → Nat
  | .command w => w.toNat
  | .request fn => fn.toNat
  | .response fn => fn.toNat

/-- Mask and match of the row of each instruction, copied from the tables of R46 and R49. -/
def row : Instr → Nat × Nat
  | .encRh _ _ _ => (0x70000000000, 0x00000000000)
  | .encWs _ _ _ => (0x70000000000, 0x10000000000)
  | .encWm _ _ _ => (0x70000000000, 0x20000000000)
  | .encId _ => (0x70000000000, 0x30000000000)
  | .decArm _ _ => (0x70000000000, 0x40000000000)
  | .decEnd => (0x70000000000, 0x50000000000)
  | .vbufWr _ _ => (0x70000000000, 0x60000000000)
  | .cmdRsv => (0x70000000000, 0x70000000000)
  | .reqRh => (0xFF, 0x03)
  | .reqWs => (0xFF, 0x06)
  | .reqWm => (0xFF, 0x10)
  | .reqId => (0xFF, 0x11)
  | .rspRh => (0xFF, 0x03)
  | .rspWs => (0xFF, 0x06)
  | .rspWm => (0xFF, 0x10)
  | .rspId => (0xFF, 0x11)
  | .rspExc _ => (0x80, 0x80)

/-- The statement of the family. -/
def Statement (i : Instr) : Prop := i.wellFormed = true → bits (encode i) &&& (row i).1 = (row i).2

/-- The code of a packed command word is its bits 42 to 40. -/
theorem packCommand_code (code : BitVec 3) (slave : Byte) (addr arg : Word16) :
    (packCommand code slave addr arg).toNat &&& 0x70000000000 = code.toNat * 2 ^ 40 := by
  have h : (packCommand code slave addr arg).toNat
      = code.toNat * 2 ^ 40 + (slave.toNat * 2 ^ 32 + addr.toNat * 2 ^ 16 + arg.toNat) := by
    simp only [packCommand, BitVec.toNat_append]
    have h1 := code.isLt
    have h2 := slave.isLt
    have h3 := addr.isLt
    have h4 := arg.isLt
    rw [← Nat.shiftLeft_add_eq_or_of_lt h2, ← Nat.shiftLeft_add_eq_or_of_lt h3, ← Nat.shiftLeft_add_eq_or_of_lt h4]
    simp only [Nat.shiftLeft_eq]
    omega
  have h1 := code.isLt
  have h2 := slave.isLt
  have h3 := addr.isLt
  have h4 := arg.isLt
  have hl : slave.toNat * 2 ^ 32 + addr.toNat * 2 ^ 16 + arg.toNat < 2 ^ 40 := by omega
  rw [h]
  apply Nat.eq_of_testBit_eq
  intro j
  rw [show (0x70000000000 : Nat) = 7 * 2 ^ 40 by norm_num, Nat.testBit_and, Nat.mul_comm code.toNat,
    Nat.testBit_two_pow_mul_add _ hl, Nat.mul_comm 7, Nat.testBit_two_pow_mul, Nat.testBit_two_pow_mul]
  by_cases hj : j < 40
  · simp [hj, show ¬ 40 ≤ j by omega]
  · simp only [hj, if_false, show 40 ≤ j by omega, decide_true, Bool.true_and]
    by_cases h43 : j < 43
    · have : j - 40 = 0 ∨ j - 40 = 1 ∨ j - 40 = 2 := by omega
      rcases this with e | e | e <;> rw [e] <;> simp [show Nat.testBit 7 0 = true by decide,
        show Nat.testBit 7 1 = true by decide, show Nat.testBit 7 2 = true by decide]
    · rw [Nat.testBit_lt_two_pow (x := code.toNat) (i := j - 40)
        (Nat.lt_of_lt_of_le h1 (Nat.pow_le_pow_right (by decide) (by omega)))]
      rfl

theorem encRh (slave : Byte) (firstReg count : Word16) : Statement (.encRh slave firstReg count) :=
  fun _ => packCommand_code 0#3 slave firstReg count
theorem encWs (slave : Byte) (reg value : Word16) : Statement (.encWs slave reg value) :=
  fun _ => packCommand_code 1#3 slave reg value
theorem encWm (slave : Byte) (firstReg n : Word16) : Statement (.encWm slave firstReg n) :=
  fun _ => packCommand_code 2#3 slave firstReg n
theorem encId (slave : Byte) : Statement (.encId slave) := fun _ => packCommand_code 3#3 slave _ _
theorem decArm (es ef : Byte) : Statement (.decArm es ef) := fun _ => packCommand_code 4#3 es _ _
theorem decEnd : Statement .decEnd := fun _ => packCommand_code 5#3 _ _ _
theorem vbufWr (index value : Word16) : Statement (.vbufWr index value) := fun _ => packCommand_code 6#3 _ index value
theorem cmdRsv : Statement .cmdRsv := fun _ => packCommand_code 7#3 _ _ _
theorem reqRh : Statement .reqRh := fun _ => rfl
theorem reqWs : Statement .reqWs := fun _ => rfl
theorem reqWm : Statement .reqWm := fun _ => rfl
theorem reqId : Statement .reqId := fun _ => rfl
theorem rspRh : Statement .rspRh := fun _ => rfl
theorem rspWs : Statement .rspWs := fun _ => rfl
theorem rspWm : Statement .rspWm := fun _ => rfl
theorem rspId : Statement .rspId := fun _ => rfl
theorem rspExc (fn : Byte) : Statement (.rspExc fn) := by
  intro h
  have h7 : fn.toNat.testBit 7 = true := h
  change fn.toNat &&& 2 ^ 7 = 2 ^ 7
  rw [Nat.and_two_pow, h7]
  rfl

end Sys2Proof.Laws.RowMatch
end

