-- ==== Sys2Proof/Tests/Slice0.lean ====
section
/-! SUPPORT. Tests of the model: what the checks refuse, words written out from the spec's encodings, one step of each
instruction against the vectors of 95_test_vectors.md, and for every obligation with hypotheses a witness of them. -/

set_option Elab.async false

namespace Sys2Proof.Tests

open Machine

/-! ### Small states -/

/-- The next state of an outcome, if it is one. -/
def nextOf (o : Host.Outcome State Fault Refusal) : Option State :=
  match o with
  | .next s => some s
  | .fault _ => none
  | .refused _ => none

theorem next_of_isSome {o : Host.Outcome State Fault Refusal} (h : (nextOf o).isSome = true) : ∃ t, o = .next t := by
  cases o with
  | next t => exact ⟨t, rfl⟩
  | fault r => cases h
  | refused r => cases h

theorem next_of_any {o : Host.Outcome State Fault Refusal} {p : State → Bool} (h : (nextOf o).any p = true) :
    ∃ t, o = .next t ∧ p t = true := by
  cases o with
  | next t => exact ⟨t, rfl, h⟩
  | fault r => cases h
  | refused r => cases h

/-- A view of the state an instruction leaves. -/
def after {α : Type} (i : Instr) (s : State) (view : State → α) : Option α := (nextOf (exec i s)).map view

/-- A frame of layout `op` in flight, with byte `i` of `len` next. -/
def sending (op : ReqOp) (arg : Word16) (len i : Nat) (crc : Word16) : State :=
  { State.reset with
    encSt := .send, txReady := true, cmdOp := op, cmdSlave := 1, cmdAddr := 10, cmdArg := arg, cmdWritten := true
    txLen := .ofNat 8 len, txIdx := .ofNat 8 i, txCrc := crc, vbuf := [(0, 7), (1, 7), (2, 7)] }

/-- The parser in `RECV` with these bytes received. -/
def received (es ef : Byte) (bytes : List Byte) : State :=
  bytes.foldl (fun s b => s.rxStore b) (State.reset.arm es ef)

/-- The parser after `DEC.END` on these bytes. -/
def decoded (es ef : Byte) (bytes : List Byte) : State :=
  (nextOf (exec .decEnd (received es ef bytes))).getD State.reset

/-- A command word at the port with the host's turn next. -/
def presented (w : CmdWord) (s : State) : State := { s with cmdQ := [w], turns := [.host] }

/-- `DEC.END` held in `IDLE`, with this event next. -/
def heldEnd (u : Turn) (rst : Bool) : State :=
  { presented 0x50000000000#43 State.reset with portHeld := true, turns := [u], rst := rst }

/-- 256 bytes received. -/
def full : State := { received 1 3 [] with rxLen := 256 }

/-- `01 03 02 12 34 B5 33`, an RH response (95 section 3.6). -/
def frameRh : List Byte := [0x01#8, 0x03#8, 0x02#8, 0x12#8, 0x34#8, 0xB5#8, 0x33#8]
/-- `01 06 00 0A 00 07 E8 0A`, a WS response (95 section 3.6). -/
def frameWs : List Byte := [0x01#8, 0x06#8, 0x00#8, 0x0A#8, 0x00#8, 0x07#8, 0xE8#8, 0x0A#8]
/-- `01 10 00 0A 00 03 A0 0A`, a WM response (95 section 3.6). -/
def frameWm : List Byte := [0x01#8, 0x10#8, 0x00#8, 0x0A#8, 0x00#8, 0x03#8, 0xA0#8, 0x0A#8]
/-- `01 11 05 42 FF 4C 4D 42 BC 3E`, an ID response (95 section 3.6). -/
def frameId : List Byte := [0x01#8, 0x11#8, 0x05#8, 0x42#8, 0xFF#8, 0x4C#8, 0x4D#8, 0x42#8, 0xBC#8, 0x3E#8]
/-- `01 83 02 C0 F1`, an exception response (95 section 3.6). -/
def frameExc : List Byte := [0x01#8, 0x83#8, 0x02#8, 0xC0#8, 0xF1#8]

/-! ### What the checks refuse -/

theorem test_wf_exc_bit7_clear_refused : (Instr.rspExc 0x7F#8).wellFormed = false := by decide
theorem test_wf_exc_bit7_set_accepted : (Instr.rspExc 0x80#8).wellFormed = true := by decide
theorem test_wf_line_wide_slave_refused : AsmLine.wellFormed ⟨.encId, [256]⟩ = false := by decide
theorem test_wf_line_wide_value_refused : AsmLine.wellFormed ⟨.encWs, [1, 10, 65536]⟩ = false := by decide
theorem test_wf_line_missing_operand_refused : AsmLine.wellFormed ⟨.encRh, [1, 0]⟩ = false := by decide
theorem test_wf_line_spare_operand_refused : AsmLine.wellFormed ⟨.decEnd, [0]⟩ = false := by decide

/-! ### Words written out bit by bit from R45, R46 and R49 -/

theorem test_decode_encRh : decode (.command 0b000_00000001_0000000000000000_0000000000001010#43)
    = .ok (.encRh 1#8 0#16 10#16) := by decide
theorem test_decode_encWs : decode (.command 0b001_00000001_0000000000001010_0000000000000111#43)
    = .ok (.encWs 1#8 10#16 7#16) := by decide
theorem test_decode_encWm : decode (.command 0b010_00000001_0000000000001010_0000000000000011#43)
    = .ok (.encWm 1#8 10#16 3#16) := by decide
theorem test_decode_encId : decode (.command 0b011_00000001_1111111111111111_1111111111111111#43)
    = .ok (.encId 1#8) := by decide
theorem test_decode_decArm : decode (.command 0b100_00010001_1111111111111111_1111111100000011#43)
    = .ok (.decArm 0x11#8 0x03#8) := by decide
theorem test_decode_decEnd : decode (.command 0b101_11111111_0000000000000001_1000000000000000#43)
    = .ok .decEnd := by decide
theorem test_decode_vbufWr : decode (.command 0b110_11111111_0000000001111010_1011111011101111#43)
    = .ok (.vbufWr 122#16 0xBEEF#16) := by decide
theorem test_decode_cmdRsv : decode (.command 0b111_00000000_0000000000000000_0000000000000000#43)
    = .ok .cmdRsv := by decide
theorem test_decode_reqRh : decode (.request 0b00000011#8) = .ok .reqRh := by decide
theorem test_decode_reqWs : decode (.request 0b00000110#8) = .ok .reqWs := by decide
theorem test_decode_reqWm : decode (.request 0b00010000#8) = .ok .reqWm := by decide
theorem test_decode_reqId : decode (.request 0b00010001#8) = .ok .reqId := by decide
theorem test_decode_rspRh : decode (.response 0b00000011#8) = .ok .rspRh := by decide
theorem test_decode_rspWs : decode (.response 0b00000110#8) = .ok .rspWs := by decide
theorem test_decode_rspWm : decode (.response 0b00010000#8) = .ok .rspWm := by decide
theorem test_decode_rspId : decode (.response 0b00010001#8) = .ok .rspId := by decide
theorem test_decode_rspExc : decode (.response 0b10000011#8) = .ok (.rspExc 0x83#8) := by decide
theorem test_decode_rejects_response : decode (.response 0x04#8) = .error (.noResponseFormat 0x04#8) := by decide
theorem test_decode_rejects_request : decode (.request 0x83#8) = .error (.noRequestFormat 0x83#8) := by decide
theorem test_table_word_command : decodeTableWord 48 0x101000A0007 = some (.encWs 1#8 10#16 7#16) := by decide
theorem test_table_word_byte : decodeTableWord 8 0x86 = some (.rspExc 0x86#8) := by decide
theorem test_table_word_too_wide : decodeTableWord 48 0x80000000000 = none := by decide

theorem test_text_line : assembleText " ENC.WS 1,10 , 0x07 " = some 0x101000A0007#43 := by decide +kernel
theorem test_text_missing_comma : assembleText "ENC.RH 1, 0 10" = none := by decide +kernel
theorem test_text_wide_operand : assembleText "ENC.RH 256, 0, 10" = none := by decide +kernel

/-! ### CRC and frames (95 sections 3.1 to 3.5) -/

theorem test_crc_update : crc16Update 0x1234#16 0x56#8 = 0xE993#16 := by decide +kernel
theorem test_crc_trace : crc16 [0x01#8, 0x11#8] = 0x2CC0#16 := by decide +kernel
theorem test_frame_rh : frame .rh 1 0xFFFF 125 (fun _ => 0)
    = [0x01#8, 0x03#8, 0xFF#8, 0xFF#8, 0x00#8, 0x7D#8, 0x85#8, 0xCF#8] := by decide +kernel
theorem test_frame_ws : frame .ws 1 0x1234 0xABCD (fun _ => 0)
    = [0x01#8, 0x06#8, 0x12#8, 0x34#8, 0xAB#8, 0xCD#8, 0x73#8, 0xD9#8] := by decide +kernel
theorem test_frame_wm : frame .wm 0x11 1 2 (fun k => if k = 0 then 0x000A else 0x0102)
    = [0x11#8, 0x10#8, 0x00#8, 0x01#8, 0x00#8, 0x02#8, 0x04#8, 0x00#8, 0x0A#8, 0x01#8, 0x02#8, 0xC6#8, 0xF0#8] := by
  decide +kernel
theorem test_frame_id : frame .id 255 0 0 (fun _ => 0) = [0xFF#8, 0x11#8, 0x80#8, 0x4C#8] := by decide +kernel

/-! ### One step of each instruction -/

/-- 95 P1 step 2. -/
theorem test_encRh : after (.encRh 1 0x0100 2) (received 1 3 []) (fun t => (t.status, t.txLen, t.txIdx, t.txCrc))
    = some (0x09#8, 8#8, 0#8, 0xFFFF#16) := by decide +kernel
/-- 95 P5 step 1. -/
theorem test_encRh_badCount : after (.encRh 1 0 126) State.reset (fun t => (t.status, t.txOut)) = some (0x02#8, []) := by
  decide +kernel
/-- 95 P3 step 2. -/
theorem test_encWs : after (.encWs 1 10 7) State.reset (fun t => (t.encSt, t.txLen, t.cmdArg)) = some (.send, 8#8, 7#16) := by
  decide +kernel
/-- 95 P2 step 4. -/
theorem test_encWm : after (.encWm 1 10 3) State.reset (fun t => (t.status, t.txLen)) = some (0x01#8, 15#8) := by
  decide +kernel
/-- 95 P5 step 3. -/
theorem test_encWm_badCount : after (.encWm 1 0 124) State.reset (fun t => t.status) = some 0x02#8 := by decide +kernel
/-- 95 P5 step 7. -/
theorem test_encId : after (.encId 1) { State.reset with illCmd := true } (fun t => (t.status, t.txLen, t.cmdSlave))
    = some (0x41#8, 4#8, 1#8) := by decide +kernel
/-- 95 section 3.7: `ENC.ID 1` presented in `SEND` is not accepted. -/
theorem test_encId_held : after (.encId 1) (sending .rh 1 8 3 0) id = some (sending .rh 1 8 3 0) := by decide +kernel
/-- 95 P4 step 6. -/
theorem test_decArm : after (.decArm 1 3) (decoded 1 3 []) (fun t => (t.status, t.resStatus, t.rxLen))
    = some (0x08#8, .none, 0) := by decide +kernel
/-- 95 section 3.6, last row. -/
theorem test_decEnd_empty : after .decEnd (received 1 3 []) (fun t => (t.status, t.resStatus)) = some (0x10#8, .malformed) := by
  decide +kernel
/-- 95 P4 step 5. -/
theorem test_decEnd_crc : after .decEnd (received 1 3 [0x01#8, 0x03#8, 0x02#8, 0x12#8, 0x35#8, 0xB5#8, 0x33#8])
    (fun t => (t.status, t.resStatus, t.resExc)) = some (0x10#8, .crcMismatch, 0#8) := by decide +kernel
/-- 95 P5 step 5. -/
theorem test_vbufWr : after (.vbufWr 122 0xBEEF) State.reset (fun t => (t.vbufRead 122, t.status)) = some (0xBEEF#16, 0#8) := by
  decide +kernel
/-- 95 P5 step 4. -/
theorem test_vbufWr_badIndex : after (.vbufWr 123 0xBEEF) State.reset (fun t => (t.vbuf, t.status)) = some ([], 0x04#8) := by
  decide +kernel
/-- 95 section 3.7, row 2. -/
theorem test_cmdRsv : after .cmdRsv (sending .rh 1 8 3 0) (fun t => (t.illCmd, t.encSt, t.txIdx)) = some (true, .send, 3#8) := by
  decide +kernel
/-- 95 P1 step 3: the high byte of the CRC ends the frame. -/
theorem test_reqRh_last : after .reqRh (sending .rh 2 8 7 0xF7C5) (fun t => (t.txOut, t.encSt, t.txIdx))
    = some ([⟨0xF7#8, true⟩], .idle, 8#8) := by decide +kernel
/-- 95 section 3.3, row 1: the sixth byte is the value's low byte. -/
theorem test_reqWs : after .reqWs (sending .ws 7 8 5 0) (fun t => t.txOut) = some [⟨0x07#8, false⟩] := by decide +kernel
/-- 95 section 3.1, the running CRC of P2, steps 7 and 8. -/
theorem test_reqWm_value : after .reqWm (sending .wm 3 15 8 0xA7FB) (fun t => (t.txOut, t.txCrc))
    = some ([⟨0x07#8, false⟩], 0x41A7#16) := by decide +kernel
/-- 95 section 3.1, step 13 of P2. -/
theorem test_reqWm_crc_low : after .reqWm (sending .wm 3 15 13 0x6383) (fun t => (t.txOut, t.txCrc))
    = some ([⟨0x83#8, false⟩], 0x6383#16) := by decide +kernel
/-- R86, the worked example: step 2. -/
theorem test_reqId : after .reqId (sending .id 0 4 1 0x807E) (fun t => (t.txOut, t.txCrc))
    = some ([⟨0x11#8, false⟩], 0x2CC0#16) := by decide +kernel
theorem test_rspRh : after .rspRh (received 1 3 frameRh) (fun t => (t.resStatus, t.resNwords, t.resWord 0))
    = some (.ok, 1#7, 0x1234#16) := by decide +kernel
theorem test_rspWs : after .rspWs (received 1 6 frameWs) (fun t => (t.resStatus, t.resAddr, t.resArg))
    = some (.ok, 0x000A#16, 0x0007#16) := by decide +kernel
theorem test_rspWm : after .rspWm (received 1 0x10 frameWm) (fun t => (t.resStatus, t.resAddr, t.resArg))
    = some (.ok, 0x000A#16, 0x0003#16) := by decide +kernel
theorem test_rspId : after .rspId (received 1 0x11 frameId) (fun t => (t.resStatus, t.resNbytes, t.resByte 1))
    = some (.ok, 5#8, 0xFF#8) := by decide +kernel
theorem test_rspExc : after (.rspExc 0x83) (received 1 3 frameExc) (fun t => (t.resStatus, t.resExc, t.resNwords))
    = some (.exceptionResponse, 0x02#8, 0#7) := by decide +kernel
/-- 95 section 3.6: an exception frame without a code byte. -/
theorem test_rspExc_short : after (.rspExc 0x83) (received 1 3 [0x01#8, 0x83#8, 0x41#8, 0x81#8])
    (fun t => (t.resStatus, t.resExc)) = some (.malformed, 0#8) := by decide +kernel
/-- 95 section 3.7: `RESET` while a frame is in flight. -/
theorem test_reset : (nextOf (step { sending .rh 1 8 3 0 with rst := true, txOut := [⟨0x00#8, false⟩] })).map
    (fun t => (t.status, t.txLen, t.txCrc, t.txOut)) = some (0#8, 0#8, 0xFFFF#16, [⟨0x00#8, false⟩]) := by decide +kernel
/-- R156: a held word is not given up; after `RESET` the host takes it back (log 7). -/
theorem test_withdraw : (nextOf (step (heldEnd .withdraw false))).map (·.cmdQ) = some [0x50000000000#43]
    ∧ ((nextOf (step (heldEnd .withdraw true))).bind (fun t => nextOf (step t))).map (·.cmdQ) = some [] := by
  decide +kernel
/-- The placed word runs next: a command (R45) and a received frame (log 6). -/
theorem test_fetch_command : (nextOf (step (State.reset.withFetchWord 48 0x70000000000))).map State.status = some 0x40#8 := by
  decide +kernel
theorem test_fetch_response : (nextOf (step (State.reset.withFetchWord 8 0x06))).map
    (fun t => (t.resStatus, t.decSt)) = some (.ok, .done) := by decide +kernel

/-! ### States of the invariant -/

/-- A frame in flight is a state of the invariant when its index, length, count and CRC fit. -/
theorem sending_inv {op : ReqOp} {arg : Word16} {len i : Nat} {crc : Word16}
    (h : len ≤ 255 ∧ i < len ∧ len = frameLen op arg ∧ countOk op arg = true)
    (hc : crc = crc16 ((sending op arg len i 0).body.take i)) : (sending op arg len i crc).Inv := by
  obtain ⟨h1, h2, h3, h4⟩ := h
  have hi : (BitVec.ofNat 8 i).toNat = i := by simp only [BitVec.toNat_ofNat]; omega
  have hl : (BitVec.ofNat 8 len).toNat = len := by simp only [BitVec.toNat_ofNat]; omega
  exact {
    vbufWf := rfl
    rxbufWf := rfl
    rxWritten := fun j hj => absurd hj (Nat.not_lt_zero j)
    sendIdx := fun _ => by simp only [sending]; omega
    sendLen := fun _ => by simp only [sending]; omega
    sendCount := fun _ => h4
    sendErr := fun _ => rfl
    sendWritten := fun _ => rfl
    sendCrc := fun _ => by
      have : (sending op arg len i crc).txIdx.toNat = i := hi
      rw [this]
      exact hc
    ovfFull := nofun
    resultDone := by simp [sending, State.reset]
    excStatus := fun h => absurd rfl h
    expWrittenArmed := fun h => absurd rfl h
    resultIsVerdict := nofun }

/-- A result of `DEC.END` on fewer than 257 bytes, with the encoder idle, is a state of the invariant when the buffer
and the result fit. -/
theorem done_inv {s : State} (h : s.encSt = .idle ∧ s.decSt = .done ∧ s.resStatus ≠ .none ∧ s.rxOvf = false
    ∧ Memory.wf Config.nVbuf s.vbuf = true ∧ Memory.wf Config.maxAdu s.rxbuf = true ∧ s.expWritten = true
    ∧ (∀ i < s.rxLen.val, (Memory.lookup s.rxbuf i).isSome) ∧ (s.resExc ≠ 0#8 → s.resStatus = .exceptionResponse)
    ∧ (s.resStatus, s.resExc) = classify s.rxFrame s.rxOvf s.expSlave s.expFunc) : s.Inv := by
  obtain ⟨h1, h2, h3, h4, h5, h6, h7, h8, h9, h10⟩ := h
  have hs : ∀ {p : Prop}, s.encSt = .send → p := fun h => by rw [h1] at h; cases h
  exact {
    vbufWf := h5, rxbufWf := h6, rxWritten := h8
    sendIdx := hs, sendLen := hs, sendCount := hs, sendErr := hs, sendWritten := hs, sendCrc := hs
    ovfFull := fun h => by rw [h4] at h; cases h
    resultDone := iff_of_true h3 h2
    excStatus := h9, expWrittenArmed := fun _ => h7, resultIsVerdict := fun _ => h10 }

theorem sendingRh_inv : (sending .rh 1 8 0 0xFFFF).Inv := sending_inv (by decide) rfl
theorem sendingWm_inv : (sending .wm 123 255 0 0xFFFF).Inv := sending_inv (by decide) rfl
theorem decodedRh_inv : (decoded 1 3 frameRh).Inv := done_inv (by decide +kernel)
theorem decodedWm_inv : (decoded 1 0x10 frameWm).Inv := done_inv (by decide +kernel)
theorem decodedId_inv : (decoded 1 0x11 frameId).Inv := done_inv (by decide +kernel)
theorem decodedExc_inv : (decoded 1 3 frameExc).Inv := done_inv (by decide +kernel)

/-! ### Witnesses: for every obligation with hypotheses, states and operands that meet them -/

theorem witness_DecodeOfEncode : (Instr.rspExc 0x80#8).wellFormed = true ∧ (Instr.rspExc 0xFF#8).wellFormed = true
    ∧ (Instr.decArm 0xFF#8 0xFF#8).wellFormed = true := by decide

theorem witness_MatchAndMaskSelectCommand : 0x0FFFFFFFFFF#43 &&& 0x70000000000#43 = 0x00000000000#43
    ∧ 0x10000000000#43 &&& 0x70000000000#43 = 0x10000000000#43 ∧ 0x2FFFFFFFFFF#43 &&& 0x70000000000#43 = 0x20000000000#43
    ∧ 0x30000000000#43 &&& 0x70000000000#43 = 0x30000000000#43 ∧ 0x4FFFFFFFFFF#43 &&& 0x70000000000#43 = 0x40000000000#43
    ∧ 0x50000000000#43 &&& 0x70000000000#43 = 0x50000000000#43 ∧ 0x6FFFFFFFFFF#43 &&& 0x70000000000#43 = 0x60000000000#43
    ∧ 0x7FFFFFFFFFF#43 &&& 0x70000000000#43 = 0x70000000000#43 := by decide

/-- `ENC.ID` with different ignored fields, and `DEC.ARM` with different high bits of `arg`. -/
theorem witness_IgnoredFieldsIgnored :
    ((3#3 ∈ [0#3, 1#3, 2#3, 3#3, 4#3] → (1#8 : Byte) = 1#8) ∧ (3#3 ∈ [0#3, 1#3, 2#3, 6#3] → (0#16 : Word16) = 0xFFFF#16))
    ∧ (4#3 = 4#3 → (0x0003#16).extractLsb' 0 8 = (0xFF03#16).extractLsb' 0 8) := by decide

theorem witness_FunctionCodeMap : 0x00#8 ∉ [0x03#8, 0x06#8, 0x10#8, 0x11#8] ∧ 0x00#8 &&& 0x80#8 = 0#8
    ∧ 0x7F#8 ∉ [0x03#8, 0x06#8, 0x10#8, 0x11#8] ∧ 0x7F#8 &&& 0x80#8 = 0#8
    ∧ 0x04#8 ∉ [0x03#8, 0x06#8, 0x10#8, 0x11#8] ∧ 0x04#8 &&& 0x80#8 = 0#8
    ∧ 4 ≤ [0x01#8, 0x04#8, 0x02#8, 0x12#8, 0x34#8, 0xB4#8, 0x47#8].length
    ∧ crcGood [0x01#8, 0x04#8, 0x02#8, 0x12#8, 0x34#8, 0xB4#8, 0x47#8] = true
    ∧ rxByte [0x01#8, 0x04#8, 0x02#8, 0x12#8, 0x34#8, 0xB4#8, 0x47#8] 1 = 0x04#8 := by decide +kernel

theorem witness_AssembledFields : ∃ s a g : Nat, s < 256 ∧ a < 65536 ∧ g < 65536 ∧ g < 256 := ⟨255, 65535, 255, by decide⟩

theorem witness_EncRhStartsFrame : State.reset.encSt = .idle ∧ (sending .id 0 4 0 0).encSt = .send
    ∧ (1 ≤ (1#16).toNat ∧ (1#16).toNat ≤ 125) ∧ (1 ≤ (125#16).toNat ∧ (125#16).toNat ≤ 125)
    ∧ (0#16).toNat < 1 ∧ 125 < (126#16).toNat := by decide

theorem witness_EncWsStartsFrame : (received 1 3 []).encSt = .idle ∧ (sending .rh 1 8 3 0).encSt = .send := by decide

theorem witness_EncWmStartsFrame : State.reset.encSt = .idle ∧ (sending .wm 1 11 0 0).encSt = .send
    ∧ (1 ≤ (1#16).toNat ∧ (1#16).toNat ≤ 123) ∧ (1 ≤ (123#16).toNat ∧ (123#16).toNat ≤ 123)
    ∧ (0#16).toNat < 1 ∧ 123 < (124#16).toNat := by decide

theorem witness_EncIdStartsFrame : (received 1 0x11 []).encSt = .idle ∧ (sending .ws 0 8 7 0).encSt = .send := by decide

theorem witness_EncoderErrorTaxonomy : State.reset.encSt = .idle ∧ (0#16).toNat < 1 ∧ 125 < (126#16).toNat
    ∧ 123 < (124#16).toNat ∧ 122 < (123#16).toNat ∧ (122#16).toNat ≤ 122
    ∧ countOk .rh 125 = true ∧ countOk .ws 0 = true ∧ countOk .wm 123 = true ∧ countOk .id 0 = true := by decide

theorem witness_VbufWrWritesEntry : State.reset.encSt = .idle ∧ (sending .wm 1 11 0 0).encSt = .send
    ∧ (0#16).toNat ≤ 122 ∧ (122#16).toNat ≤ 122 ∧ 122 < (123#16).toNat ∧ 122 < (0xFFFF#16).toNat := by decide

theorem witness_OutOfRangeWritesNothing : (State.reset.encSt = .idle ∧ 122 < (123#16).toNat) ∧
    (∃ s : State, s.rst = false ∧ s.turns = .link :: [] ∧ s.rxQ = 0x00#8 :: [] ∧ s.decSt = .recv ∧ s.rxLen.val = 256)
    ∧ (∀ i, 123 ≤ i → Memory.lookup (presented 0x600007ABEEF#43 State.reset).vbuf i = none)
    ∧ (∀ i, 256 ≤ i → Memory.lookup (presented 0x600007ABEEF#43 State.reset).rxbuf i = none)
    ∧ ∃ t, step (presented 0x600007ABEEF#43 State.reset) = .next t :=
  ⟨by decide, ⟨{ full with turns := [.link], rxQ := [0x00#8] }, rfl, rfl, rfl, rfl, rfl⟩, fun _ _ => rfl, fun _ _ => rfl,
    next_of_isSome (by decide +kernel)⟩

/-- The last value byte but one of the longest frame reads entry 122; the views of the three layouts read their last
byte. -/
theorem witness_OutOfRangeReads : (∃ crc, (sending .wm 123 255 252 crc).Inv)
    ∧ (∀ crc, (sending .wm 123 255 252 crc).encSt = .send ∧ (sending .wm 123 255 252 crc).vbufIndexRead = some 122)
    ∧ countOk .wm 123 = true
    ∧ ((decoded 1 3 frameRh).Inv ∧ (decoded 1 0x10 frameWm).Inv ∧ (decoded 1 0x11 frameId).Inv)
    ∧ ((decoded 1 3 frameRh).decSt = .done ∧ (decoded 1 3 frameRh).resStatus = .ok
      ∧ 0 < (decoded 1 3 frameRh).resNwords.toNat)
    ∧ ((decoded 1 0x10 frameWm).resStatus = .ok ∧ (decoded 1 0x10 frameWm).expFunc = 0x10#8)
    ∧ (decoded 1 0x11 frameId).resStatus = .ok ∧ 4 < (decoded 1 0x11 frameId).resNbytes.toNat :=
  ⟨⟨_, sending_inv (by decide) rfl⟩, fun _ => ⟨rfl, by simp [State.vbufIndexRead, sending]⟩, by decide, ⟨decodedRh_inv, decodedWm_inv, decodedId_inv⟩,
    by decide +kernel⟩

theorem witness_GuardFalseChangesNothing : ready .decEnd State.reset = false
    ∧ ready (.vbufWr 0 0) (sending .id 0 4 0 0) = false ∧ ready .reqRh State.reset = false
    ∧ ready .rspRh (received 1 3 []) = false := by decide +kernel

/-- The first and the last byte of the layout, as in the two that follow. -/
theorem witness_ReqRhSendsLayout : ∀ i ∈ [0, 7], (sending .rh 1 8 i 0).encSt = .send ∧ (sending .rh 1 8 i 0).txReady = true
    ∧ (sending .rh 1 8 i 0).cmdOp = .rh ∧ (sending .rh 1 8 i 0).txLen = 8#8 ∧ (sending .rh 1 8 i 0).txIdx.toNat = i
    ∧ i < 8 := by decide

theorem witness_ReqWsSendsLayout : ∀ i ∈ [0, 7], (sending .ws 1 8 i 0).encSt = .send ∧ (sending .ws 1 8 i 0).txReady = true
    ∧ (sending .ws 1 8 i 0).cmdOp = .ws ∧ (sending .ws 1 8 i 0).txLen = 8#8 ∧ (sending .ws 1 8 i 0).txIdx.toNat = i
    ∧ i < 8 := by decide

theorem witness_ReqIdSendsLayout : ∀ i ∈ [0, 3], (sending .id 1 4 i 0).encSt = .send ∧ (sending .id 1 4 i 0).txReady = true
    ∧ (sending .id 1 4 i 0).cmdOp = .id ∧ (sending .id 1 4 i 0).txLen = 4#8 ∧ (sending .id 1 4 i 0).txIdx.toNat = i
    ∧ i < 4 := by decide

/-- One value and 123 values, at the header, the first and last value byte, and the CRC. -/
theorem witness_ReqWmSendsLayout : ∀ p ∈ [(1, 0), (1, 7), (1, 8), (1, 9), (1, 10), (123, 6), (123, 252), (123, 253), (123, 254)],
    (sending .wm (.ofNat 16 p.1) (9 + 2 * p.1) p.2 0).encSt = .send
      ∧ (sending .wm (.ofNat 16 p.1) (9 + 2 * p.1) p.2 0).cmdOp = .wm
      ∧ (sending .wm (.ofNat 16 p.1) (9 + 2 * p.1) p.2 0).cmdArg.toNat = p.1
      ∧ (sending .wm (.ofNat 16 p.1) (9 + 2 * p.1) p.2 0).txLen.toNat = 9 + 2 * p.1
      ∧ (sending .wm (.ofNat 16 p.1) (9 + 2 * p.1) p.2 0).txIdx.toNat = p.2 ∧ p.2 < 9 + 2 * p.1 := by
  decide

/-- Entry 3 has not been written. -/
theorem witness_UnwrittenValueRecorded : emitReady .wm (sending .wm 4 17 13 0) = true
    ∧ (∃ t, exec .reqWm (sending .wm 4 17 13 0) = .next t)
    ∧ Memory.lookup (sending .wm 4 17 13 0).vbuf 3 = none :=
  ⟨by decide, next_of_isSome (by decide +kernel), by decide⟩

/-- Operands at the ends of their ranges and beyond; and other events between the steps `ENC.EMIT` of an `ENC.ID` frame:
before any of its four, after three, and the fourth. -/
theorem witness_WholeFrameSent : (State.reset.encSt = .idle ∧ countOk .rh 1 = true ∧ countOk .rh 125 = true
    ∧ countOk .ws 0 = true ∧ countOk .wm 1 = true ∧ countOk .wm 123 = true ∧ countOk .id 0 = true
    ∧ countOk .rh 126 = false ∧ countOk .wm 0 = false ∧ countOk .wm 124 = false)
    ∧ (Turn.raiseRst ∉ [Turn.enc, .host, .setTxReady true, .enc, .link, .setTxReady false, .enc, .setTxReady true, .enc,
        .withdraw, .enc])
    ∧ emitTurns false [.enc, .host] = 0
    ∧ emitTurns false [.enc, .host, .setTxReady true, .enc, .link, .setTxReady false, .enc, .setTxReady true, .enc,
        .withdraw, .enc] = 3
    ∧ emitTurns false ([.enc, .host, .setTxReady true, .enc, .link, .setTxReady false, .enc, .setTxReady true, .enc,
        .withdraw, .enc] ++ [.enc]) = frameLen .id 0 := by decide

theorem witness_EmitSendsFrameByte : (sending .rh 1 8 0 0xFFFF).Inv ∧ (sending .rh 1 8 0 0xFFFF).encSt = .send
    ∧ (sending .rh 1 8 0 0xFFFF).txReady = true ∧ State.reset.encSt = .idle
    ∧ ({ sending .rh 1 8 0 0xFFFF with txReady := false } : State).txReady = false := ⟨sendingRh_inv, by decide⟩

theorem witness_CrcCheckIsZeroResidue : 4 ≤ [0x01#8, 0x11#8, 0xC0#8, 0x2C#8].length
    ∧ crcGood [0x01#8, 0x11#8, 0xC0#8, 0x2C#8] = true ∧ crcGood [0x01#8, 0x11#8, 0xC0#8, 0x2D#8] = false := by
  decide +kernel

theorem witness_SingleBitFlipFailsCrc : 4 ≤ [0x01#8, 0x11#8, 0xC0#8, 0x2C#8].length
    ∧ crcGood [0x01#8, 0x11#8, 0xC0#8, 0x2C#8] = true ∧ (0 < 4 ∧ 0 < 8) ∧ (3 < 4 ∧ 7 < 8) := by decide +kernel

/-- 0, 255 and 256 bytes in, and a byte outside `RECV`. -/
theorem witness_ByteStoredOrDropped (n : Nat) (hn : n < 257) :
    ∃ s : State, s.rst = false ∧ s.turns = .link :: [] ∧ s.rxQ = 0xAA#8 :: [] ∧ s.decSt = .recv ∧ s.rxLen.val = n :=
  ⟨{ full with rxLen := ⟨n, hn⟩, turns := [.link], rxQ := [0xAA#8] }, rfl, rfl, rfl, rfl, rfl⟩

theorem witness_ByteDropped : ∀ d ∈ [DecSt.idle, DecSt.done],
    ∃ s : State, s.rst = false ∧ s.turns = .link :: [] ∧ s.rxQ = 0xAA#8 :: [] ∧ s.decSt = d ∧ s.decSt ≠ .recv := by
  intro d hd
  refine ⟨{ State.reset with decSt := d, turns := [.link], rxQ := [0xAA#8] }, rfl, rfl, rfl, rfl, ?_⟩
  revert hd
  cases d <;> decide

theorem witness_DecEndClassifies : (received 1 3 []).decSt = .recv ∧ (received 1 3 []).rxLen = 0
    ∧ (presented 0x50000000000#43 State.reset).rst = false
    ∧ (presented 0x50000000000#43 State.reset).turns = .host :: []
    ∧ (presented 0x50000000000#43 State.reset).cmdQ = 0x50000000000#43 :: []
    ∧ (decode (.command 0x50000000000#43)).toOption = some .decEnd
    ∧ (presented 0x50000000000#43 State.reset).decSt ≠ .recv := by decide

theorem received_holdsFrame (es fn ef : Byte) (r : List Byte)
    (h : decide ((received es ef r).decSt = .recv) && !(received es ef r).rxOvf && decide (4 ≤ (received es ef r).rxLen.val)
      && crcGood (received es ef r).rxFrame && decide (rxByte (received es ef r).rxFrame 0 = (received es ef r).expSlave)
      && decide (rxByte (received es ef r).rxFrame 1 = fn) = true) : HoldsFrame (received es ef r) fn := by
  simp only [Bool.and_eq_true, decide_eq_true_eq, Bool.not_eq_true'] at h
  exact ⟨h.1.1.1.1.1, h.1.1.1.1.2, h.1.1.1.2, h.1.1.2, h.1.2, h.2⟩

/-- A frame that is `Ok`, and one of byte count 0 that is not (95 section 3.6). -/
theorem witness_RspRhVerdict : HoldsFrame (received 1 3 frameRh) 0x03#8 ∧ (received 1 3 frameRh).expFunc = 0x03#8
    ∧ HoldsFrame (received 1 3 [0x01#8, 0x03#8, 0x00#8, 0x20#8, 0xF0#8]) 0x03#8 :=
  ⟨received_holdsFrame _ _ _ _ (by decide +kernel), by decide, received_holdsFrame _ _ _ _ (by decide +kernel)⟩

theorem witness_RspWriteVerdict : (HoldsFrame (received 1 6 frameWs) 0x06#8 ∧ (received 1 6 frameWs).expFunc = 0x06#8)
    ∧ HoldsFrame (received 1 0x10 frameWm) 0x10#8 ∧ (received 1 0x10 frameWm).expFunc = 0x10#8
    ∧ HoldsFrame (received 1 0x10 [0x01#8, 0x10#8, 0x00#8, 0x0A#8, 0x00#8, 0x1B#8, 0xA0#8]) 0x10#8 :=
  ⟨⟨received_holdsFrame _ _ _ _ (by decide +kernel), by decide⟩, received_holdsFrame _ _ _ _ (by decide +kernel),
    by decide, received_holdsFrame _ _ _ _ (by decide +kernel)⟩

theorem witness_RspIdVerdict : HoldsFrame (received 1 0x11 frameId) 0x11#8 ∧ (received 1 0x11 frameId).expFunc = 0x11#8
    ∧ HoldsFrame (received 1 0x11 [0x01#8, 0x11#8, 0x00#8, 0x2C#8, 0x50#8]) 0x11#8 :=
  ⟨received_holdsFrame _ _ _ _ (by decide +kernel), by decide, received_holdsFrame _ _ _ _ (by decide +kernel)⟩

theorem witness_RspExcVerdict : (0x83#8).getLsbD 7 = true ∧ HoldsFrame (received 1 3 frameExc) 0x83#8
    ∧ (received 1 3 frameExc).rxLen.val = 5
    ∧ HoldsFrame (received 1 3 [0x01#8, 0x83#8, 0x41#8, 0x81#8]) 0x83#8 :=
  ⟨by decide, received_holdsFrame _ _ _ _ (by decide +kernel), by decide, received_holdsFrame _ _ _ _ (by decide +kernel)⟩

theorem witness_ResponseRowsAreDecEnd : parserSelect (received 1 3 frameRh) = some .rspRh
    ∧ parserSelect (received 1 6 frameExc) = some (.rspExc 0x83#8) := by decide +kernel

/-- Each stage of 95 section 3.6: three bytes, a bad CRC, a wrong slave, a wrong function, an unsupported function. -/
theorem witness_ClassifyStages : [0x01#8, 0x03#8, 0x00#8].length < 4
    ∧ crc16 (List.take 5 [0x01#8, 0x03#8, 0x02#8, 0x12#8, 0x35#8, 0xB5#8, 0x33#8]) ≠ be16 0x33#8 0xB5#8
    ∧ (crc16 (List.take 5 frameRh) = be16 0x33#8 0xB5#8 ∧ rxByte frameRh 0 ≠ 0x11#8 ∧ rxByte frameRh 0 = 0x01#8
      ∧ (rxByte frameRh 1).getLsbD 7 = false ∧ rxByte frameRh 1 ≠ 0x06#8)
    ∧ (crc16 [0x01#8, 0x04#8, 0x02#8, 0x12#8, 0x34#8] = be16 0x47#8 0xB4#8
      ∧ 0x04#8 ∉ [0x03#8, 0x06#8, 0x10#8, 0x11#8]) := by decide +kernel

/-- One buffer for each code: `Ok`, a wrong CRC, another slave, an exception response, and four of `Malformed`: empty, an
exception frame without its code, another function byte, a layout that does not fit. -/
theorem witness_ResultTaxonomy : ∀ p ∈ [(received 1 3 frameRh, 1#3), (received 1 3 [0x01#8, 0x03#8, 0x02#8, 0x12#8,
      0x35#8, 0xB5#8, 0x33#8], 2#3), (received 2 3 frameRh, 3#3), (received 1 3 [], 4#3),
      (received 1 3 [0x01#8, 0x83#8, 0x41#8, 0x81#8], 4#3), (received 1 6 frameRh, 4#3),
      (received 1 3 [0x01#8, 0x03#8, 0x00#8, 0x20#8, 0xF0#8], 4#3), (received 1 3 frameExc, 5#3)],
    p.1.decSt = .recv ∧ after .decEnd p.1 (fun t => t.resStatus.code) = some p.2 := by decide +kernel

/-- `CMD.RSV` and `ENC.ID` issued, and a byte sent, while the bytes arrive; and 256 and 257 bytes, where the two clauses
meet. -/
theorem witness_DecFrameIsClassify : (sending .rh 1 8 0 0xFFFF).Inv
    ∧ (∀ w ∈ [0x70000000000#43, 0x30100000000#43],
        decode (.command w) ≠ .ok .decEnd ∧ ∀ a b, decode (.command w) ≠ .ok (.decArm a b))
    ∧ Turn.raiseRst ∉ [Turn.enc, .host, .link, .host, .setTxReady false, .withdraw]
    ∧ [Turn.enc, .host, .link, .host, .setTxReady false, .withdraw].count .link = [0xAA#8].length
    ∧ ∀ n ∈ [256, 257], Turn.raiseRst ∉ Turn.enc :: List.replicate n .link
      ∧ (Turn.enc :: List.replicate n .link).count .link = (List.replicate n 0xAA#8).length := by
  have h1 : decode (.command 0x70000000000#43) = .ok .cmdRsv := by decide
  have h2 : decode (.command 0x30100000000#43) = .ok (.encId 1#8) := by decide
  refine ⟨sendingRh_inv, ?_, by decide, by decide, fun n _ => ?_⟩
  · intro w hw
    rcases List.mem_pair.mp hw with rfl | rfl
    · simp [h1]
    · simp [h2]
  · simp [List.mem_replicate, List.count_replicate_self]

theorem witness_EchoRoundTrip : countOk .wm 1 = true ∧ countOk .wm 123 = true := by decide

/-- A byte arriving in `DONE`, and a command of the encoder. -/
theorem witness_ResultStable : (decoded 1 3 frameRh).decSt = .done ∧ (decoded 1 3 frameRh).rst = false
    ∧ (∃ t, step { decoded 1 3 frameRh with turns := [.link], rxQ := [0x01#8] } = .next t)
    ∧ portInstr (presented 0x30100000000#43 (decoded 1 3 frameRh)) = some (.encId 1#8)
    ∧ ∃ t, step (presented 0x30100000000#43 (decoded 1 3 frameRh)) = .next t :=
  ⟨by decide +kernel, by decide +kernel, next_of_isSome (by decide +kernel), by decide +kernel,
    next_of_isSome (by decide +kernel)⟩

/-- The first and the last register or byte, and the first beyond. -/
theorem witness_ViewsShowResponse : (decoded 1 3 frameRh).decSt = .done ∧ (decoded 1 3 frameRh).resStatus = .ok
    ∧ (decoded 1 3 frameRh).expFunc = 0x03#8 ∧ 0 < ((decoded 1 3 frameRh).rxRead 2).toNat / 2
    ∧ ((decoded 1 3 frameRh).rxRead 2).toNat / 2 ≤ 1
    ∧ (decoded 1 0x10 frameWm).resStatus = .ok ∧ (decoded 1 0x10 frameWm).expFunc ∈ [0x06#8, 0x10#8]
    ∧ (decoded 1 0x11 frameId).resStatus = .ok ∧ 4 < ((decoded 1 0x11 frameId).rxRead 2).toNat
    ∧ ((decoded 1 0x11 frameId).rxRead 2).toNat ≤ 5 ∧ (decoded 1 3 frameExc).resStatus ≠ .ok := by decide +kernel

theorem witness_CmdRsvSetsIllcmd : ∃ s t : State, s.illCmd = true ∧ s.rst = false ∧ step s = .next t :=
  ⟨{ State.reset with illCmd := true, turns := [.enc] }, _, rfl, rfl,
    (next_of_isSome (o := step { State.reset with illCmd := true, turns := [.enc] }) (by decide +kernel)).choose_spec⟩

/-- `RESET` with a command held, a frame in flight and entries of `VBUF` written. -/
theorem witness_ResetStep :
    { presented 0x30100000000#43 (sending .rh 1 8 3 0) with rst := true, portHeld := true : State }.rst = true := rfl

theorem witness_StepRunsDecoded :
    ((presented 0x30100000000#43 State.reset).rst = false ∧ (presented 0x30100000000#43 State.reset).turns = .host :: []
      ∧ (presented 0x30100000000#43 State.reset).cmdQ = 0x30100000000#43 :: []
      ∧ (decode (.command 0x30100000000#43)).toOption = some (.encId 1#8))
    ∧ ((decode (.command 0x50000000000#43)).toOption = some .decEnd
      ∧ parserSelect (presented 0x50000000000#43 (received 1 3 frameRh)) = some .rspRh)
    ∧ { sending .rh 1 8 0 0 with turns := [.enc] : State }.turns = .enc :: [] := by decide +kernel

theorem witness_FetchWordRuns : decodeTableWord 48 0x7FFFFFFFFFF = some .cmdRsv
    ∧ decodeTableWord 48 0 = some (.encRh 0 0 0) := by decide

theorem witness_StepKeepsInv : (sending .rh 1 8 0 0xFFFF).Inv ∧ (∃ t, step (sending .rh 1 8 0 0xFFFF) = .next t)
    ∧ (decoded 1 3 frameExc).Inv := ⟨sendingRh_inv, next_of_isSome (by decide +kernel), decodedExc_inv⟩

/-- A run of two steps: `ENC.RH` accepted, a byte sent. -/
theorem witness_ReachableStatesMeetR25 : ∃ s : State, core.run 2 { State.reset with
    rst := false, txReady := true, cmdQ := [0x0010000000A#43], portHeld := false, rxQ := []
    turns := [.host, .enc] } = .next s
    ∧ (decide (s.encSt = .send) && decide (s.cmdOp = .rh)) = true :=
  next_of_any (p := fun s => decide (s.encSt = .send) && decide (s.cmdOp = .rh)) (by decide +kernel)

theorem witness_InvNeverStops : (sending .wm 123 255 0 0xFFFF).Inv := sendingWm_inv

/-- `ENC.ID` presented in `IDLE`, `DEC.END` presented in `IDLE`, and taken back before it is looked at. -/
theorem witness_CommandTakenWhenGuardHolds : (presented 0x30100000000#43 State.reset).rst = false
    ∧ (presented 0x30100000000#43 State.reset).cmdQ = 0x30100000000#43 :: []
    ∧ (decode (.command 0x30100000000#43)).toOption = some (.encId 1#8)
    ∧ (∃ t, step (presented 0x30100000000#43 State.reset) = .next t)
    ∧ (presented 0x30100000000#43 State.reset).cmdReady = true
    ∧ (presented 0x50000000000#43 State.reset).cmdReady = false
    ∧ ∃ t, step { presented 0x50000000000#43 State.reset with turns := [.withdraw] } = .next t :=
  ⟨rfl, rfl, by decide, next_of_isSome (by decide +kernel), by decide +kernel, by decide +kernel,
    next_of_isSome (by decide +kernel)⟩

/-- `IDLE` to `SEND`, `SEND` to `IDLE`, `RECV` to `DONE`, `DONE` to `RECV`, and `RESET`. -/
theorem witness_SequencerTransitions :
    ((nextOf (step (presented 0x30100000000#43 State.reset))).map (·.encSt) = some .send)
    ∧ (portInstr (presented 0x2010000007C#43 State.reset) = some (encInstr .wm 1#8 0#16 124#16) ∧ countOk .wm 124 = false)
    ∧ ((nextOf (step { sending .rh 1 8 7 0 with turns := [.enc] })).map (·.encSt) = some .idle)
    ∧ ((nextOf (step (presented 0x50000000000#43 (received 1 3 [])))).map (·.decSt) = some .done)
    ∧ ((nextOf (step (presented 0x40100000003#43 (decoded 1 3 frameExc)))).map (·.decSt) = some .recv)
    ∧ (nextOf (step { sending .rh 1 8 7 0 with rst := true })).map (·.encSt) = some .idle := by decide +kernel

theorem witness_OnlyVbufWrWritesVbuf :
    (nextOf (step (presented 0x600007ABEEF#43 State.reset))).map (·.vbuf) = some [(122, 0xBEEF#16)] := by decide +kernel

theorem witness_TxOutAppendOnly : ∃ t, step { sending .rh 1 8 0 0xFFFF with turns := [.enc] } = .next t :=
  next_of_isSome (by decide +kernel)

theorem witness_UnitsIndependent : (∃ t, exec (.encRh 1 0 1) State.reset = .next t)
    ∧ (∃ t, exec .reqRh (sending .rh 1 8 0 0xFFFF) = .next t) ∧ (∃ t, exec .rspRh (received 1 3 frameRh) = .next t)
    ∧ ∃ t, exec .decEnd (received 1 3 frameExc) = .next t :=
  ⟨next_of_isSome (by decide +kernel), next_of_isSome (by decide +kernel), next_of_isSome (by decide +kernel),
    next_of_isSome (by decide +kernel)⟩

/-- A byte arrives, a turn of the encoder, the host would take the word back, `RESET`. -/
theorem witness_DecEndOutsideRecvHangs : ∀ p ∈ [(Turn.link, false), (.enc, false), (.withdraw, false), (.withdraw, true)],
    PortHung (heldEnd p.1 p.2) ∧ (heldEnd p.1 p.2).rst = p.2 ∧ ∃ t, step (heldEnd p.1 p.2) = .next t := by
  intro p hp
  exact ⟨⟨nofun, rfl, 0x50000000000#43, [], rfl, by rfl⟩, rfl, next_of_isSome (by revert p; decide +kernel)⟩

/-- `DEC.ARM` clears a result, and a refused `ENC.RH` changes `ENC_ERR`. -/
theorem witness_FaultsClearedOnlyBySpecEvents :
    ((nextOf (step (presented 0x40100000003#43 (decoded 1 3 frameExc)))).map (·.resStatus) = some .none)
    ∧ (nextOf (step (presented 0x0010000007E#43 State.reset))).map (·.encErr) = some .badCount := by decide +kernel

theorem witness_FaultLogOnlyGrows : (nextOf (step (presented 0x70000000000#43 State.reset))).map (·.faultLog)
    = some [.reservedCommand] := by decide +kernel

end Sys2Proof.Tests
end

/-! PROOFS. The guard rule of R7: what an instruction answers where its guard is false. -/

namespace Sys2Proof.Machine

/-- A `DEC.END` outside `RECV` is held, which the model records (R102, R156; log 5). -/
theorem exec_decEnd_of_not_recv {s : State} (h : s.decSt ≠ .recv) :
    exec .decEnd s = .next (s.record .decEndHeld) := if_neg h

/-- Where its guard is false, every instruction but `DEC.END`, which is recorded, leaves the whole state as it is: a
command and a request row are held (R7, R80, R86), a response row is not selected (log 6). -/
theorem exec_of_not_ready {i : Instr} {s : State} (h : ready i s = false) (hi : i ≠ .decEnd) : exec i s = .next s := by
  cases i with
  | encRh | encWs | encWm | encId | vbufWr => exact if_neg (of_decide_eq_false h)
  | decArm | cmdRsv => cases h
  | decEnd => exact absurd rfl hi
  | reqRh | reqWs | reqWm | reqId => exact if_neg (Bool.eq_false_iff.mp h)
  | rspRh | rspWs | rspWm | rspId | rspExc => exact if_neg (of_decide_eq_false h)

/-- Settles O14: only a held `DEC.END` differs from the state before it, by its record in the model's log. -/
theorem guardFalseChangesNothing : Obligations.GuardFalseChangesNothing := by
  intro i s h
  by_cases hi : i = .decEnd
  · subst hi
    exact ⟨_, exec_decEnd_of_not_recv (of_decide_eq_false h), rfl⟩
  · exact ⟨s, exec_of_not_ready h hi, rfl⟩

end Sys2Proof.Machine

/-! PROOFS. The invariant of R25: its clauses unit by unit, and that every step keeps them. -/

namespace Sys2Proof.Machine

/-! ### The clauses of each unit -/

/-- The clauses of the invariant about a frame in flight (R13, R21, R25.1 to R25.3). -/
structure State.InFlight (s : State) : Prop where
  idx : s.txIdx.toNat < s.txLen.toNat
  len : s.txLen.toNat = frameLen s.cmdOp s.cmdArg
  count : countOk s.cmdOp s.cmdArg = true
  err : s.encErr = .none
  written : s.cmdWritten = true
  crc : s.txCrc = crc16 (s.body.take s.txIdx.toNat)

/-- The encoder's clauses of the invariant. -/
structure State.EncInv (s : State) : Prop where
  vbufWf : Memory.wf Config.nVbuf s.vbuf = true
  inFlight : s.encSt = .send → s.InFlight

/-- The parser's clauses of the invariant (R20, R25.4 to R25.6, R25.8, R114). -/
structure State.DecInv (s : State) : Prop where
  rxbufWf : Memory.wf Config.maxAdu s.rxbuf = true
  rxWritten : ∀ i < s.rxLen.val, (Memory.lookup s.rxbuf i).isSome
  ovfFull : s.rxOvf = true → s.rxLen.val = 256
  resultDone : s.resStatus ≠ .none ↔ s.decSt = .done
  excStatus : s.resExc ≠ 0#8 → s.resStatus = .exceptionResponse
  expWrittenArmed : s.decSt ≠ .idle → s.expWritten = true
  resultIsVerdict : s.decSt = .done → (s.resStatus, s.resExc) = classify s.rxFrame s.rxOvf s.expSlave s.expFunc

/-- The invariant is the encoder's clauses and the parser's. -/
theorem State.inv_iff {s : State} : s.Inv ↔ s.EncInv ∧ s.DecInv := by
  constructor
  · intro h
    exact ⟨⟨h.vbufWf, fun hs => ⟨h.sendIdx hs, h.sendLen hs, h.sendCount hs, h.sendErr hs, h.sendWritten hs,
      h.sendCrc hs⟩⟩, ⟨h.rxbufWf, h.rxWritten, h.ovfFull, h.resultDone, h.excStatus, h.expWrittenArmed,
      h.resultIsVerdict⟩⟩
  · rintro ⟨he, hd⟩
    exact {
      vbufWf := he.vbufWf
      sendIdx := fun hs => (he.inFlight hs).idx
      sendLen := fun hs => (he.inFlight hs).len
      sendCount := fun hs => (he.inFlight hs).count
      sendErr := fun hs => (he.inFlight hs).err
      sendWritten := fun hs => (he.inFlight hs).written
      sendCrc := fun hs => (he.inFlight hs).crc
      rxbufWf := hd.rxbufWf
      rxWritten := hd.rxWritten
      ovfFull := hd.ovfFull
      resultDone := hd.resultDone
      excStatus := hd.excStatus
      expWrittenArmed := hd.expWrittenArmed
      resultIsVerdict := hd.resultIsVerdict }

/-! ### What each unit's clauses depend on -/

/-- The body of the frame being sent is a function of the operand registers, of `VBUF` and of its power-up (R57). -/
theorem State.body_congr {s t : State} (hop : t.cmdOp = s.cmdOp) (hsl : t.cmdSlave = s.cmdSlave)
    (ha : t.cmdAddr = s.cmdAddr) (hg : t.cmdArg = s.cmdArg) (hv : t.vbuf = s.vbuf) (he : t.epoch = s.epoch) :
    t.body = s.body := by
  have hr : t.vbufRead = s.vbufRead := by
    funext i
    simp only [State.vbufRead, hv, he]
  simp only [State.body, hop, hsl, ha, hg, hr]

theorem State.rxFrame_congr {s t : State} (hb : t.rxbuf = s.rxbuf) (hl : t.rxLen = s.rxLen) (he : t.epoch = s.epoch) :
    t.rxFrame = s.rxFrame := by
  have hr : t.rxRead = s.rxRead := by
    funext i
    simp only [State.rxRead, hb, he]
  simp only [State.rxFrame, hl, hr]

theorem State.EncInv.congr {s t : State} (h : s.EncInv) (hs : SameEncoder s t) (hw : t.cmdWritten = s.cmdWritten)
    (he : t.epoch = s.epoch) : t.EncInv := by
  obtain ⟨hst, hidx, hlen, hcrc, herr, hop, hsl, ha, hg, hv, -⟩ := hs
  have hb := State.body_congr hop hsl ha hg hv he
  refine ⟨by rw [hv]; exact h.vbufWf, fun hsend => ?_⟩
  have hf := h.inFlight (hst.symm.trans hsend)
  exact {
    idx := by rw [hidx, hlen]; exact hf.idx
    len := by rw [hlen, hop, hg]; exact hf.len
    count := by rw [hop, hg]; exact hf.count
    err := herr.trans hf.err
    written := hw.trans hf.written
    crc := by rw [hcrc, hb, hidx]; exact hf.crc }

theorem State.DecInv.congr {s t : State} (h : s.DecInv) (hs : SameParser s t) (hw : t.expWritten = s.expWritten)
    (he : t.epoch = s.epoch) : t.DecInv := by
  obtain ⟨hst, hes, hef, hb, hl, ho, hres, hexc⟩ := hs
  have hfr := State.rxFrame_congr hb hl he
  constructor
  · rw [hb]; exact h.rxbufWf
  · rw [hb, hl]; exact h.rxWritten
  · rw [ho, hl]; exact h.ovfFull
  · rw [hres, hst]; exact h.resultDone
  · rw [hexc, hres]; exact h.excStatus
  · rw [hst, hw]; exact h.expWrittenArmed
  · rw [hst, hres, hexc, hfr, ho, hes, hef]; exact h.resultIsVerdict

/-- An event that moves neither unit's registers keeps the invariant. -/
theorem State.Inv.congr {s t : State} (h : s.Inv) (he : SameEncoder s t) (hp : SameParser s t)
    (hc : t.cmdWritten = s.cmdWritten) (hx : t.expWritten = s.expWritten) (hep : t.epoch = s.epoch) : t.Inv := by
  obtain ⟨henc, hdec⟩ := State.inv_iff.mp h
  exact State.inv_iff.mpr ⟨henc.congr he hc hep, hdec.congr hp hx hep⟩

/-- What the environment presents is in no clause. -/
theorem State.Inv.with_inputs {s : State} (h : s.Inv) (rst txReady held : Bool) (cmdQ : List CmdWord) (rxQ : List Byte)
    (ts : List Turn) : State.Inv { s with
      rst := rst, txReady := txReady, portHeld := held, cmdQ := cmdQ, rxQ := rxQ, turns := ts } :=
  h.congr (by simp [SameEncoder]) (by simp [SameParser]) rfl rfl rfl

/-! ### The encoder's operations -/

/-- In `IDLE` the encoder's clauses are the canonical form of `VBUF` alone. -/
theorem State.EncInv.of_idle {s : State} (hv : Memory.wf Config.nVbuf s.vbuf = true) (hi : s.encSt = .idle) :
    s.EncInv := ⟨hv, fun hs => by rw [hi] at hs; cases hs⟩

/-- `StartFrame` with operands in range puts a frame in flight (R80). -/
theorem State.latchFrame_inFlight {op : ReqOp} {g : Word16} (h : countOk op g = true) (sl : Byte) (a : Word16)
    (s : State) : (s.latchFrame op sl a g).InFlight where
  idx := by
    have := frameLen_bounds h
    rw [latchFrame_txLen_toNat h]
    exact Nat.lt_of_lt_of_le (by decide : 0 < 4) this.1
  len := latchFrame_txLen_toNat h sl a s
  count := h
  err := rfl
  written := rfl
  crc := rfl

theorem State.InFlight.body_length {s : State} (h : s.InFlight) : s.body.length + 2 = s.txLen.toNat :=
  (frameBody_length _ _ _ _ _).trans h.len.symm

/-- `TX_CRC` after a byte that is not the last: the CRC of the body bytes emitted so far, that byte with them (R86, R87). -/
theorem State.InFlight.emission_crc {s : State} {e : Emission} (h : s.InFlight) (he : s.emission = some e)
    (hn : s.txIdx.toNat + 1 < s.txLen.toNat) : e.crc = crc16 (s.body.take (s.txIdx.toNat + 1)) := by
  have hb := h.body_length
  rw [emission_eq h.len h.idx] at he
  obtain rfl := Option.some.inj he
  by_cases hbody : s.txIdx.toNat + 2 < s.txLen.toNat
  · have hlt : s.txIdx.toNat < s.body.length := by omega
    have hget : s.body[s.txIdx.toNat]? = some (s.body.getD s.txIdx.toNat 0#8) := by
      simp [List.getElem?_eq_getElem hlt, List.getD]
    simp only [if_pos hbody]
    rw [h.crc]
    exact crc16_take_succ _ _ _ hget
  · simp only [if_neg hbody]
    rw [h.crc, List.take_of_length_le (by omega), List.take_of_length_le (by omega)]

/-- `ENC.EMIT` keeps the encoder's clauses: after the last byte the encoder is `IDLE`, after every other the frame is
still in flight (R86). -/
theorem State.EncInv.sendByte {s : State} {e : Emission} (h : s.EncInv) (hs : s.encSt = .send)
    (he : s.emission = some e) : (s.noteUnwritten.sendByte e).EncInv := by
  have hf := h.inFlight hs
  refine ⟨by simpa using h.vbufWf, fun hsend => ?_⟩
  have hlast : e.last = false := by
    cases hl : e.last with
    | false => rfl
    | true => simp [hl] at hsend
  have hnext : s.txIdx.toNat + 1 < s.txLen.toNat := by
    rw [emission_last he] at hlast
    have := of_decide_eq_false hlast
    have := hf.idx
    omega
  have hidx : (BitVec.ofNat 8 (s.txIdx.toNat + 1)).toNat = s.txIdx.toNat + 1 := by
    have := s.txLen.isLt
    rw [BitVec.toNat_ofNat]
    omega
  have hbody : (s.noteUnwritten.sendByte e).body = s.body := by apply State.body_congr <;> simp
  exact {
    idx := by simpa [hidx] using hnext
    len := by simpa using hf.len
    count := by simpa using hf.count
    err := by simpa using hf.err
    written := by simpa using hf.written
    crc := by
      simp only [State.sendByte_txCrc, State.sendByte_txIdx, State.noteUnwritten_txIdx, hbody, hidx]
      exact hf.emission_crc he hnext }

/-! ### The parser's operations -/

/-- `DEC.ARM` clears the result and empties the buffer (R100). -/
theorem State.DecInv.arm {s : State} (h : s.DecInv) (es ef : Byte) : (s.arm es ef).DecInv where
  rxbufWf := h.rxbufWf
  rxWritten := fun i hi => absurd hi (Nat.not_lt_zero i)
  ovfFull := nofun
  resultDone := by simp
  excStatus := fun hne => absurd rfl hne
  expWrittenArmed := fun _ => rfl
  resultIsVerdict := nofun

/-- `DEC.END` leaves the result of `Classify` (R102, R114). -/
theorem State.DecInv.deliver {s : State} (h : s.DecInv) (hr : s.decSt = .recv) :
    (s.deliver (classify s.rxFrame s.rxOvf s.expSlave s.expFunc)).DecInv := by
  have hexc := classify_exc s.rxFrame s.rxOvf s.expSlave s.expFunc
  have hne := classify_ne_none s.rxFrame s.rxOvf s.expSlave s.expFunc
  rw [State.deliver_eq _ s hexc]
  exact {
    rxbufWf := h.rxbufWf
    rxWritten := h.rxWritten
    ovfFull := h.ovfFull
    resultDone := iff_of_true hne rfl
    excStatus := fun hx => by_contra fun hst => hx (hexc hst)
    expWrittenArmed := fun _ => h.expWrittenArmed (by rw [hr]; nofun)
    resultIsVerdict := fun _ => rfl }

/-- A byte stored is written below `RX_LEN`; a byte dropped sets `RX_OVF` on a full buffer (R101). -/
theorem State.DecInv.rxStore {s : State} (h : s.DecInv) (hr : s.decSt = .recv) (b : Byte) : (s.rxStore b).DecInv := by
  have hdone : s.decSt ≠ .done := by rw [hr]; nofun
  have hwf := s.rxStore_wf b h.rxbufWf
  unfold State.rxStore at hwf ⊢
  split at hwf
  case isTrue hlt =>
    rw [dif_pos hlt]
    exact {
      rxbufWf := hwf
      rxWritten := fun i hi => by
        have hi' : i < s.rxLen.val + 1 := hi
        rw [Memory.lookup_write]
        split
        · rfl
        · exact h.rxWritten i (by omega)
      ovfFull := fun ho => by have := h.ovfFull ho; omega
      resultDone := h.resultDone
      excStatus := h.excStatus
      expWrittenArmed := h.expWrittenArmed
      resultIsVerdict := fun hd => absurd hd hdone }
  case isFalse hge =>
    rw [dif_neg hge]
    exact {
      rxbufWf := hwf
      rxWritten := h.rxWritten
      ovfFull := fun _ => by have : s.rxLen.val < 257 := s.rxLen.isLt; show s.rxLen.val = 256; omega
      resultDone := h.resultDone
      excStatus := h.excStatus
      expWrittenArmed := h.expWrittenArmed
      resultIsVerdict := fun hd => absurd hd hdone }

/-- `DEC.BYTE` keeps the invariant: stored in `RECV`, dropped elsewhere (R101, R103). -/
theorem State.Inv.decByte {s : State} (h : s.Inv) (b : Byte) : (decByte b s).Inv := by
  obtain ⟨henc, hdec⟩ := State.inv_iff.mp h
  unfold Machine.decByte
  split
  · exact State.inv_iff.mpr ⟨henc.congr (by simp [SameEncoder]) (by simp) (by simp), hdec.rxStore ‹_› b⟩
  · exact h

/-! ### The machine -/

/-- The invariant at reset, whatever the environment presents: the encoder is `IDLE`, and neither a result nor an entry
of a store is there (R24). -/
theorem State.Inv.of_reset {s : State} (hst : s.encSt = .idle) (hv : s.vbuf = []) (hp : SameParser State.reset s) :
    s.Inv := by
  obtain ⟨hd, -, -, hb, hl, ho, hres, hexc⟩ := hp
  refine State.inv_iff.mpr ⟨.of_idle (by rw [hv]; rfl) hst, ?_⟩
  constructor
  · rw [hb]; rfl
  · rw [hl]; exact fun i hi => absurd hi (Nat.not_lt_zero i)
  · rw [ho]; nofun
  · rw [hres, hd]; simp [State.reset]
  · exact fun hne => absurd hexc hne
  · exact fun hne => absurd hd hne
  · rw [hd]; nofun

/-- Every instruction keeps the invariant. -/
theorem State.Inv.of_execEffect {i : Instr} {s t : State} (h : s.Inv) (hx : ExecEffect i s t) : t.Inv := by
  obtain ⟨henc, hdec⟩ := State.inv_iff.mp h
  cases hx with
  | held => exact h
  | heldEnd => exact h.congr (by simp [SameEncoder]) (by simp [SameParser]) rfl rfl rfl
  | started op sl a g a' g' n _ _ hc =>
    exact State.inv_iff.mpr ⟨⟨henc.vbufWf, fun _ => State.latchFrame_inFlight hc ..⟩,
      hdec.congr (by simp [SameParser]) rfl rfl⟩
  | badCount _ _ _ _ _ hi =>
    exact State.inv_iff.mpr ⟨.of_idle henc.vbufWf hi, hdec.congr (by simp [SameParser]) rfl rfl⟩
  | vbufWritten k v _ hi hr =>
    exact State.inv_iff.mpr ⟨.of_idle (s.vbufWrite_wf k v henc.vbufWf hr) hi, hdec.congr (by simp [SameParser]) rfl rfl⟩
  | badIndex _ _ _ hi =>
    exact State.inv_iff.mpr ⟨.of_idle henc.vbufWf hi, hdec.congr (by simp [SameParser]) rfl rfl⟩
  | armed es ef => exact State.inv_iff.mpr ⟨henc.congr (by simp [SameEncoder]) rfl rfl, hdec.arm es ef⟩
  | ended _ _ hr =>
    exact State.inv_iff.mpr ⟨henc.congr (by simp [SameEncoder]) (by simp) (by simp), hdec.deliver hr⟩
  | reserved => exact h.congr (by simp [SameEncoder]) (by simp [SameParser]) rfl rfl rfl
  | emitted op e _ hr he =>
    simp only [emitReady, Bool.and_eq_true, decide_eq_true_eq] at hr
    exact State.inv_iff.mpr ⟨henc.sendByte hr.1.1 he, hdec.congr (by simp [SameParser]) (by simp) (by simp)⟩

/-- Settles O46: `RESET` and every event that moves no register are immediate; the rest is an instruction or a byte of
the link, in the state that has consumed its turn. -/
theorem stepKeepsInv : Obligations.StepKeepsInv := by
  intro s t h hstep
  cases step_effect hstep with
  | reset _ ht => subst ht; exact .of_reset rfl rfl (by simp [SameParser])
  | idle _ _ ht => subst ht; exact h
  | noCommand _ _ _ _ ht => subst ht; exact h.with_inputs ..
  | command _ _ _ _ _ _ _ _ ht => exact State.Inv.of_execEffect (h.with_inputs ..) ht
  | encoder ts hrst hn ht =>
    rw [step_encoder hrst hn] at hstep
    exact State.Inv.of_execEffect (h.with_inputs ..) (exec_effect hstep)
  | noByte _ _ _ _ ht => subst ht; exact h.with_inputs ..
  | byte _ b _ _ _ _ ht => subst ht; exact State.Inv.decByte (h.with_inputs ..) b
  | withdrawn _ _ _ ht => subst ht; exact h.with_inputs ..
  | txReady _ _ _ _ ht => subst ht; exact h.with_inputs ..
  | raised _ _ _ ht => subst ht; exact h.with_inputs ..

end Sys2Proof.Machine

/-! PROOFS. Runs from reset, and that no state of the invariant stops. -/

namespace Sys2Proof.Machine

/-- Settles O47: the inputs are in no clause of the invariant, which holds along the run by O46; the bounds of `TX_LEN`
are those of a legal frame, and the codes that no rule writes have no constructor. -/
theorem reachableStatesMeetR25 : Obligations.ReachableStatesMeetR25 := by
  intro n rst txReady held cmdQ rxQ turns s hrun
  have hinv : s.Inv := run_keeps stepKeepsInv n (.of_reset rfl rfl (by simp [SameParser])) hrun
  obtain ⟨henc, hdec⟩ := State.inv_iff.mp hinv
  refine ⟨fun hs => ?_, fun hs => ⟨(henc.inFlight hs).written, (henc.inFlight hs).err⟩, fun hs hop => ?_,
    fun hs hop => ?_, Nat.le_of_lt_succ s.rxLen.isLt, hdec.ovfFull, hdec.resultDone, hdec.excStatus, ⟨?_, ?_, ?_⟩, ?_⟩
  · have hf := henc.inFlight hs
    have hb := frameLen_bounds hf.count
    rw [← hf.len] at hb
    exact ⟨hb.1, hb.2, hf.idx⟩
  · exact countOk_rh.mp (hop ▸ (henc.inFlight hs).count)
  · exact countOk_wm.mp (hop ▸ (henc.inFlight hs).count)
  · cases s.decSt <;> decide
  · cases s.encErr <;> decide
  · cases s.resStatus <;> decide
  · rintro (h | h) <;> exact hdec.expWrittenArmed (by rw [h]; nofun)

/-! ### No step stops -/

/-- A guarded instruction answers a next state when each of its branches does. -/
theorem answers_ite {c : Prop} [Decidable c] {o o' : Host.Outcome State Fault Refusal} (ho : c → ∃ t, o = .next t)
    (ho' : ∃ t, o' = .next t) : ∃ t, (if c then o else o') = .next t := by
  split
  case isTrue hc => exact ho hc
  case isFalse => exact ho'

/-- `ENC.EMIT` of a frame in flight finds a byte to send (R86, R25.1). -/
theorem State.InFlight.emit_answers {s : State} (h : s.InFlight) : ∃ t, emit s = .next t :=
  ⟨_, emit_next.mpr ⟨_, emission_eq h.len h.idx, rfl⟩⟩

/-- In a state of the invariant every instruction answers a next state: the one fault of the model is that of a request
row that finds no byte to send (93 U6). -/
theorem State.Inv.exec_answers {s : State} (h : s.Inv) (i : Instr) : ∃ t, exec i s = .next t := by
  have emits (op : ReqOp) (hr : emitReady op s = true) : ∃ t, emit s = .next t := by
    simp only [emitReady, Bool.and_eq_true, decide_eq_true_eq] at hr
    exact ((State.inv_iff.mp h).1.inFlight hr.1.1).emit_answers
  cases i with
  | encRh | encWs | encWm | encId | vbufWr | decEnd | rspRh | rspWs | rspWm | rspId | rspExc =>
    exact answers_ite (fun _ => ⟨_, rfl⟩) ⟨_, rfl⟩
  | decArm | cmdRsv => exact ⟨_, rfl⟩
  | reqRh => exact answers_ite (emits .rh) ⟨s, rfl⟩
  | reqWs => exact answers_ite (emits .ws) ⟨s, rfl⟩
  | reqWm => exact answers_ite (emits .wm) ⟨s, rfl⟩
  | reqId => exact answers_ite (emits .id) ⟨s, rfl⟩

/-- Settles O48: the instruction of a turn of the host or of the encoder answers a next state, and every other event is
one. -/
theorem invNeverStops : Obligations.InvNeverStops := by
  intro s h
  cases hrst : s.rst with
  | true => exact ⟨s.resetStep, by rw [step, fetch, if_pos hrst]; rfl⟩
  | false =>
    cases hn : s.turns with
    | nil => exact ⟨s, by unfold step fetch; rw [if_neg (by simp [hrst]), hn]; rfl⟩
    | cons u ts =>
      cases u with
      | host =>
        cases hq : s.cmdQ with
        | nil => exact ⟨_, step_noCommand hrst hn hq⟩
        | cons w ws =>
          rw [step_command hrst hn hq]
          exact State.Inv.exec_answers (h.with_inputs ..) _
      | enc =>
        rw [step_encoder hrst hn]
        exact State.Inv.exec_answers (h.with_inputs ..) _
      | link =>
        cases hq : s.rxQ with
        | nil => exact ⟨_, step_noByte hrst hn hq⟩
        | cons b bs => exact ⟨_, step_byte hrst hn hq⟩
      | withdraw => exact ⟨_, step_withdraw hrst hn⟩
      | setTxReady level => exact ⟨_, step_turn hrst hn⟩
      | raiseRst => exact ⟨_, step_turn hrst hn⟩

end Sys2Proof.Machine

/-! PROOFS. What an instruction and a step leave unchanged: the inputs, `VBUF`, `TXOUT`. -/

namespace Sys2Proof.Machine

/-- No instruction moves an input (R10, R23). -/
theorem ExecEffect.sameInputs {i : Instr} {s t : State} (h : ExecEffect i s t) : SameInputs s t := by
  cases h <;> simp [SameInputs]

theorem decByte_sameInputs (b : Byte) (s : State) : SameInputs s (decByte b s) := by
  unfold decByte
  split <;> simp [SameInputs]

theorem decByte_sameEncoder (b : Byte) (s : State) : SameEncoder s (decByte b s) := by
  unfold decByte
  split <;> simp [SameEncoder]

/-- The one instruction that writes `VBUF` (R18, R85). -/
theorem ExecEffect.vbuf_changed {i : Instr} {s t : State} (h : ExecEffect i s t) (hv : t.vbuf ≠ s.vbuf) :
    s.encSt = .idle ∧ ∃ index value, i = .vbufWr index value ∧ index.toNat ≤ 122 := by
  cases h with
  | vbufWritten k v _ hi hr => exact ⟨hi, k, v, rfl, Nat.le_of_lt_succ (of_decide_eq_true hr)⟩
  | held | heldEnd | started | badCount | badIndex | armed | ended | reserved | emitted => exact absurd (by simp) hv

/-- `TXOUT` is written by the request rows alone (R19, R86). -/
theorem ExecEffect.txOut_eq {i : Instr} {s t : State} (h : ExecEffect i s t) (hi : ∀ op, i ≠ reqInstr op) :
    t.txOut = s.txOut := by
  cases h with
  | emitted op => exact absurd rfl (hi op)
  | held | heldEnd | started | badCount | vbufWritten | badIndex | armed | ended | reserved => simp

/-- Settles O50: of all steps only a command writes `VBUF`, and of all commands only `VBUF.WR`. -/
theorem onlyVbufWrWritesVbuf : Obligations.OnlyVbufWrWritesVbuf := by
  intro s t hstep hrst hv
  cases step_effect hstep with
  | reset h => rw [hrst] at h; cases h
  | command ts w ws i _ hn hq hw ht =>
    obtain ⟨hidle, k, v, hi, hk⟩ := ht.vbuf_changed hv
    exact ⟨hidle, k, v, ts, hn, by rw [portInstr_cons hq, ← hw, hi], hk⟩
  | encoder ts _ _ ht =>
    obtain rfl | ⟨e, -, -, -, rfl⟩ := ht
    · exact absurd rfl hv
    · exact absurd (by simp) hv
  | byte _ b bs _ _ _ ht =>
    subst ht
    obtain ⟨-, -, -, -, -, -, -, -, -, hvbuf, -⟩ := decByte_sameEncoder b _
    exact absurd hvbuf hv
  | idle _ _ ht | noCommand _ _ _ _ ht | noByte _ _ _ _ ht | withdrawn _ _ _ ht | txReady _ _ _ _ ht
  | raised _ _ _ ht => subst ht; exact absurd rfl hv

/-- Settles O51: the command port runs no request row, so `TXOUT` grows in the encoder's turn alone. -/
theorem txOutAppendOnly : Obligations.TxOutAppendOnly := by
  intro s t hstep
  cases step_effect hstep with
  | encoder ts _ hn ht =>
    obtain rfl | ⟨e, hs, hr, -, rfl⟩ := ht
    · exact .inl rfl
    · exact .inr ⟨⟨e.byte, e.last⟩, ts, by simp, hn, hs, hr⟩
  | command ts w ws i _ _ _ hw ht => exact .inl (ht.txOut_eq fun op => hw ▸ commandInstr_ne_request w s op)
  | byte _ b _ _ _ _ ht =>
    subst ht
    obtain ⟨-, -, -, -, -, -, -, -, -, -, htx⟩ := decByte_sameEncoder b _
    exact .inl htx
  | reset _ ht | idle _ _ ht | noCommand _ _ _ _ ht | noByte _ _ _ _ ht | withdrawn _ _ _ ht | txReady _ _ _ _ ht
  | raised _ _ _ ht => subst ht; exact .inl rfl

end Sys2Proof.Machine

/-! PROOFS. The command port: the guard of the word presented, when it is taken, and the instruction it runs. -/

namespace Sys2Proof.Machine

/-- The instructions that a command word decodes to (R46). -/
theorem decodeCommand_cases (w : CmdWord) :
    (∃ op slave addr arg, decodeCommand w = encInstr op slave addr arg) ∨ (∃ es ef, decodeCommand w = .decArm es ef)
      ∨ decodeCommand w = .decEnd ∨ (∃ index value, decodeCommand w = .vbufWr index value)
      ∨ decodeCommand w = .cmdRsv := by
  unfold decodeCommand
  repeat' split
  · exact .inl ⟨.rh, _, _, _, rfl⟩
  · exact .inl ⟨.ws, _, _, _, rfl⟩
  · exact .inl ⟨.wm, _, _, _, rfl⟩
  · exact .inl ⟨.id, _, 0#16, 0#16, rfl⟩
  · exact .inr (.inl ⟨_, _, rfl⟩)
  · exact .inr (.inr (.inl rfl))
  · exact .inr (.inr (.inr (.inl ⟨_, _, rfl⟩)))
  · exact .inr (.inr (.inr (.inr rfl)))

theorem ready_encInstr (op : ReqOp) (slave : Byte) (addr arg : Word16) (s : State) :
    ready (encInstr op slave addr arg) s = decide (s.encSt = .idle) := by cases op <;> rfl

/-- The guard column of R46. -/
theorem ready_decodeCommand (w : CmdWord) (s : State) :
    ready (decodeCommand w) s = true ↔
      ((∃ op slave addr arg, decodeCommand w = encInstr op slave addr arg)
        ∨ (∃ index value, decodeCommand w = .vbufWr index value) → s.encSt = .idle)
      ∧ (decodeCommand w = .decEnd → s.decSt = .recv) := by
  constructor
  · intro hr
    refine ⟨?_, fun h => ?_⟩
    · rintro (⟨op, sl, a, g, h⟩ | ⟨k, v, h⟩)
      · rw [h, ready_encInstr] at hr; exact of_decide_eq_true hr
      · rw [h] at hr; exact of_decide_eq_true hr
    · rw [h] at hr; exact of_decide_eq_true hr
  · rintro ⟨henc, hend⟩
    rcases decodeCommand_cases w with ⟨op, sl, a, g, h⟩ | ⟨es, ef, h⟩ | h | ⟨k, v, h⟩ | h
    · rw [h, ready_encInstr]; exact decide_eq_true (henc (.inl ⟨op, sl, a, g, h⟩))
    · rw [h]; rfl
    · rw [h]; exact decide_eq_true (hend h)
    · rw [h]; exact decide_eq_true (henc (.inr ⟨k, v, h⟩))
    · rw [h]; rfl

/-- The response row that stands for a `DEC.END` has its guard (log 6). -/
theorem ready_commandInstr (w : CmdWord) (s : State) : ready (commandInstr w s) s = ready (decodeCommand w) s := by
  rcases commandInstr_eq w s with ⟨hd, hc⟩ | ⟨-, hc⟩
  · rw [hc, hd]
    cases hp : parserSelect s with
    | none => rfl
    | some i =>
      have hend : ready .decEnd s = true := decide_eq_true (parserSelect_some hp).1
      rw [hend]
      exact parserSelect_ready hp
  · rw [hc]

/-- `cmd_ready` is the guard of the command presented (R10). -/
theorem State.cmdReady_eq {s : State} {w : CmdWord} {ws : List CmdWord} (hq : s.cmdQ = w :: ws) :
    s.cmdReady = ready (decodeCommand w) s := by
  rw [State.cmdReady, portInstr_cons hq, ← ready_commandInstr]
  rfl

/-- What a step other than `RESET` does to the port: the host's turn takes the word or marks it as held, the host may
take it back, and no other step moves it (R10, R156; log 7). -/
theorem step_port {s t : State} {w : CmdWord} {ws : List CmdWord} (hrst : s.rst = false) (hq : s.cmdQ = w :: ws)
    (hstep : step s = .next t) :
    (∃ ts, s.turns = .host :: ts ∧ t.cmdQ = (if s.cmdReady then ws else s.cmdQ) ∧ t.portHeld = !s.cmdReady)
    ∨ (∃ ts, s.turns = .withdraw :: ts ∧ t.cmdQ = (if s.portHeld then s.cmdQ else ws) ∧ t.portHeld = s.portHeld)
    ∨ ((∀ ts, s.turns ≠ .host :: ts) ∧ (∀ ts, s.turns ≠ .withdraw :: ts) ∧ t.cmdQ = s.cmdQ
      ∧ t.portHeld = s.portHeld) := by
  cases step_effect hstep with
  | reset h => rw [hrst] at h; cases h
  | noCommand _ _ _ hq' => rw [hq] at hq'; cases hq'
  | command ts w' ws' i _ hn hq' hw ht =>
    obtain ⟨rfl, rfl⟩ := List.cons.inj (hq.symm.trans hq')
    obtain ⟨-, -, hcq, hheld, -⟩ := ht.sameInputs
    have hr : s.cmdReady = ready i s := by rw [State.cmdReady_eq hq, hw, ready_commandInstr]
    exact .inl ⟨ts, hn, by rw [hcq, hr, hq], by rw [hheld, hr]⟩
  | withdrawn ts _ hn ht => subst ht; exact .inr (.inl ⟨ts, hn, by rw [hq]; rfl, rfl⟩)
  | idle _ hn ht => subst ht; exact .inr (.inr ⟨by simp [hn], by simp [hn], rfl, rfl⟩)
  | encoder ts _ hn ht =>
    refine .inr (.inr ⟨by simp [hn], by simp [hn], ?_⟩)
    obtain rfl | ⟨e, -, -, -, rfl⟩ := ht
    · exact ⟨rfl, rfl⟩
    · simp
  | byte _ b _ _ hn _ ht =>
    subst ht
    obtain ⟨-, -, hcq, hheld, -⟩ := decByte_sameInputs b _
    exact .inr (.inr ⟨by simp [hn], by simp [hn], hcq, hheld⟩)
  | noByte _ _ hn _ ht | txReady _ _ _ hn ht | raised _ _ hn ht =>
    subst ht; exact .inr (.inr ⟨by simp [hn], by simp [hn], rfl, rfl⟩)

/-- Settles O54: the guard is that of R46, and the port moves in the three ways of `step_port`. -/
theorem commandTakenWhenGuardHolds : Obligations.CommandTakenWhenGuardHolds := by
  intro s t w ws i hrst hq hd hstep
  obtain rfl : decodeCommand w = i := Except.ok.inj hd
  have hne : s.cmdQ ≠ ws := by rw [hq]; exact List.cons_ne_self w ws
  refine ⟨by rw [State.cmdReady_eq hq]; exact ready_decodeCommand w s, ?_⟩
  obtain ⟨ts, hn, hcq, hheld⟩ | ⟨ts, hn, hcq, hheld⟩ | ⟨hh, hw, hcq, hheld⟩ := step_port hrst hq hstep
  · rw [hcq, hheld]
    cases s.cmdReady <;> simp [hn, hne]
  · rw [hcq, hheld]
    cases s.portHeld <;> simp [hn, hne]
  · rw [hcq, hheld]
    simp [hh, hw, hne]

/-! ### The instruction a turn runs -/

theorem parserSelect_row {s : State} {i : Instr} (h : parserSelect s = some i) :
    i = .rspRh ∨ i = .rspWs ∨ i = .rspWm ∨ i = .rspId ∨ ∃ fn, i = .rspExc fn := by
  have hd := (parserSelect_some h).2.2.1
  simp only [decode, decodeResponse] at hd
  repeat' split at hd
  all_goals cases hd
  all_goals simp

/-- A selected response row is `DEC.END`: the verdict of its layout is that of `Classify` (R104; log 6). -/
theorem exec_of_parserSelect {s : State} {i : Instr} (h : parserSelect s = some i) : exec i s = exec .decEnd s := by
  have hend : exec .decEnd s = .next (s.deliver (classify s.rxFrame s.rxOvf s.expSlave s.expFunc)) :=
    if_pos (parserSelect_some h).1
  have hv := fun v => classify_of_select (v := v) h
  rw [hend]
  obtain rfl | rfl | rfl | rfl | ⟨fn, rfl⟩ := parserSelect_row h
  · rw [← hv (verdictRh s.rxFrame) (by simp)]; exact if_pos h
  · rw [← hv (verdictWs s.rxFrame) (by simp)]; exact if_pos h
  · rw [← hv (verdictWm s.rxFrame) (by simp)]; exact if_pos h
  · rw [← hv (verdictId s.rxFrame) (by simp)]; exact if_pos h
  · rw [← hv (verdictExc s.rxFrame) (by simp)]; exact if_pos h

/-- A turn of the host runs the command its word decodes to, whether or not `DEC.END` is carried out as a row (R10, R46,
R156; log 6). -/
theorem step_decodeCommand {s : State} {ts : List Turn} {w : CmdWord} {ws : List CmdWord} (hrst : s.rst = false)
    (hn : s.turns = .host :: ts) (hq : s.cmdQ = w :: ws) :
    step s = exec (decodeCommand w)
      { s with
        turns := ts, cmdQ := if ready (decodeCommand w) s then ws else s.cmdQ
        portHeld := !ready (decodeCommand w) s } := by
  rw [step_command hrst hn hq, ready_commandInstr, ← hq]
  rcases commandInstr_eq w s with ⟨hd, hc⟩ | ⟨-, hc⟩
  · rw [hc, hd]
    cases hp : parserSelect s with
    | none => rfl
    | some i => exact exec_of_parserSelect hp
  · rw [hc]

/-- Settles O43: the host's turn by the decoded command and by the selected row, the encoder's by the row of `CMD_OP`. -/
theorem stepRunsDecoded : Obligations.StepRunsDecoded := by
  refine ⟨?_, ?_, fun s ts hrst hn => step_encoder hrst hn⟩
  · intro s w ws ts i hrst hn hq hd
    obtain rfl : decodeCommand w = i := Except.ok.inj hd
    exact step_decodeCommand hrst hn hq
  · intro s w ws ts i hrst hn hq hd hp
    have hd : decodeCommand w = .decEnd := Except.ok.inj hd
    have hc : commandInstr w s = i := by rw [commandInstr, hd]; simp only [hp, Option.getD_some]
    rw [step_command hrst hn hq, hc, parserSelect_ready hp]
    rfl

theorem ready_presentWord (i : Instr) (w : CmdWord) (s : State) : ready i (s.presentWord w) = ready i s := by
  cases i <;> rfl

/-- Settles O44: a table word of 43 bits is presented at the port with the host's turn next. -/
theorem fetchWordRuns : Obligations.FetchWordRuns := by
  intro s w i h
  rw [decodeTableWord, if_neg (by decide)] at h
  split at h
  case isFalse => cases h
  case isTrue =>
    obtain rfl : decodeCommand (BitVec.ofNat 43 w) = i := Option.some.inj h
    rw [State.withFetchWord, if_neg (by decide), step_decodeCommand (s := s.presentWord _) rfl rfl rfl,
      ready_presentWord]
    rfl

end Sys2Proof.Machine

/-! PROOFS. The outputs: the bits of `STATUS` and the result views. -/

namespace Sys2Proof.Machine

/-! ### `STATUS` -/

/-- The fields of `STATUS`, each from its bits (R15). -/
theorem State.status_fields (s : State) :
    s.status.extractLsb' 0 1 = s.encSt.code ∧ s.status.extractLsb' 1 2 = s.encErr.code
      ∧ s.status.extractLsb' 3 2 = s.decSt.code ∧ s.status.getLsbD 5 = s.rxOvf ∧ s.status.getLsbD 6 = s.illCmd
      ∧ s.status.getLsbD 7 = false := by
  unfold State.status
  generalize s.encSt.code = st, s.encErr.code = err, s.decSt.code = dec, s.rxOvf = ovf, s.illCmd = ill
  revert st err dec ovf ill
  decide

theorem EncSt.code_getLsbD_zero (st : EncSt) : st.code.getLsbD 0 = true ↔ st = .send := by cases st <;> decide

theorem EncErr.code_injective : Function.Injective EncErr.code := by
  intro a b; cases a <;> cases b <;> decide

theorem DecSt.code_injective : Function.Injective DecSt.code := by
  intro a b; cases a <;> cases b <;> decide

/-- Settles O40: each field of `STATUS` is a register's code, and no two values of a register share a code. -/
theorem statusPacking : Obligations.StatusPacking := by
  intro s
  obtain ⟨hst, herr, hdec, hovf, hill, h7⟩ := s.status_fields
  rw [herr, hdec]
  refine ⟨?_, EncErr.code_injective.eq_iff (b := .none), EncErr.code_injective.eq_iff (b := .badCount),
    EncErr.code_injective.eq_iff (b := .badIndex), DecSt.code_injective.eq_iff (b := .idle),
    DecSt.code_injective.eq_iff (b := .recv), DecSt.code_injective.eq_iff (b := .done), hovf, hill, h7, by decide⟩
  rw [← EncSt.code_getLsbD_zero, ← hst]
  simp

/-- Settles O41: `State.reset` holds the values of R24. -/
theorem resetStateValues : Obligations.ResetStateValues :=
  ⟨rfl, rfl, rfl, rfl, rfl, rfl, rfl, rfl, rfl, rfl, rfl, rfl, rfl⟩

/-! ### The result views -/

/-- The views show a decoded response in `DONE` with `Ok` only (R22). -/
theorem State.viewsOn_iff (s : State) : s.viewsOn = true ↔ s.decSt = .done ∧ s.resStatus = .ok := by
  simp [State.viewsOn]

/-- A view that belongs to some functions only is off where the state, the result or the function is another (R22). -/
theorem State.view_off {s : State} {p : Prop} (h : s.decSt ≠ .done ∨ s.resStatus ≠ .ok ∨ ¬ p) :
    ¬ (s.viewsOn = true ∧ p) := by
  rintro ⟨hon, hp⟩
  obtain ⟨hd, hr⟩ := s.viewsOn_iff.mp hon
  exact h.elim (· hd) (·.elim (· hr) (· hp))

/-- A byte count halved fits the 7 bits of `RES_NWORDS` (R22). -/
theorem State.resNwords_toNat {s : State} (h : s.viewsOn = true) (hf : s.expFunc = Config.fcRh) :
    s.resNwords.toNat = (s.rxRead 2).toNat / 2 := by
  have := (s.rxRead 2).isLt
  rw [State.resNwords, if_pos ⟨h, hf⟩, BitVec.toNat_ofNat]
  omega

theorem State.resNbytes_eq {s : State} (h : s.viewsOn = true) (hf : s.expFunc = Config.fcId) :
    s.resNbytes = s.rxRead 2 := if_pos ⟨h, hf⟩

/-- Without a decoded read, `RES_NWORDS` is 0, and so no word is shown (R22). -/
theorem State.resWord_off {s : State} (i : Nat) (h : ¬ (s.viewsOn = true ∧ s.expFunc = Config.fcRh)) :
    s.resNwords = 0#7 ∧ s.resWord i = 0#16 := by
  have hn : s.resNwords = 0#7 := if_neg h
  exact ⟨hn, if_neg (by rw [hn]; exact Nat.not_lt_zero i)⟩

theorem State.resByte_off {s : State} (i : Nat) (h : ¬ (s.viewsOn = true ∧ s.expFunc = Config.fcId)) :
    s.resNbytes = 0#8 ∧ s.resByte i = 0#8 := by
  have hn : s.resNbytes = 0#8 := if_neg h
  exact ⟨hn, if_neg (by rw [hn]; exact Nat.not_lt_zero i)⟩

/-- Settles O38: the views of the expected function while `viewsOn`, and 0 where it or the function is another. -/
theorem viewsShowResponse : Obligations.ViewsShowResponse := by
  intro s i
  have hwrite : s.expFunc ∈ [0x06#8, 0x10#8] ↔ s.expFunc = Config.fcWs ∨ s.expFunc = Config.fcWm := by
    simp [Config.fcWs, Config.fcWm]
  rw [hwrite]
  refine ⟨fun hd hr => ?_, fun h => ?_, fun h => ?_, fun h => ?_⟩
  · have hon := s.viewsOn_iff.mpr ⟨hd, hr⟩
    refine ⟨fun hf => ?_, fun hf => ⟨if_pos ⟨hon, hf⟩, if_pos ⟨hon, hf⟩⟩, fun hf => ?_⟩
    · have hn := State.resNwords_toNat hon hf
      exact ⟨hn, fun hi => if_pos (by rwa [hn]), fun hi => if_neg (by rw [hn]; omega)⟩
    · have hn := State.resNbytes_eq hon hf
      exact ⟨hn, fun hi => if_pos (by rwa [hn]), fun hi => if_neg (by rw [hn]; omega)⟩
  · exact State.resWord_off i (State.view_off h)
  · exact ⟨if_neg (State.view_off h), if_neg (State.view_off h)⟩
  · exact State.resByte_off i (State.view_off h)

end Sys2Proof.Machine

/-! PROOFS. The stores (R31): what a step may do to one, and that no access falls outside one. -/

namespace Sys2Proof.Machine

/-! ### Writes -/

/-- What a step may do to a store: leave it, empty it, or write one entry below `size` (R30, R31, R150). -/
def Memory.StepBelow {w : Nat} (size : Nat) (m m' : Memory w) : Prop :=
  m' = m ∨ m' = [] ∨ ∃ i v, i < size ∧ m' = Memory.write m i v

theorem Memory.StepBelow.lookup_none {w size : Nat} {m m' : Memory w} (h : Memory.StepBelow size m m')
    (hm : ∀ i, size ≤ i → Memory.lookup m i = none) {i : Nat} (hi : size ≤ i) : Memory.lookup m' i = none := by
  obtain rfl | rfl | ⟨k, v, hk, rfl⟩ := h
  · exact hm i hi
  · rfl
  · rw [Memory.lookup_write_other m v (by omega)]
    exact hm i hi

theorem ExecEffect.vbuf_stepBelow {i : Instr} {s t : State} (h : ExecEffect i s t) :
    Memory.StepBelow 123 s.vbuf t.vbuf := by
  cases h with
  | vbufWritten k v _ _ hr => exact .inr (.inr ⟨k.toNat, v, of_decide_eq_true hr, rfl⟩)
  | held | heldEnd | started | badCount | badIndex | armed | ended | reserved | emitted => exact .inl (by simp)

/-- `RXBUF` is written by the link's bytes alone (R20, R101). -/
theorem ExecEffect.rxbuf_eq {i : Instr} {s t : State} (h : ExecEffect i s t) : t.rxbuf = s.rxbuf := by
  cases h <;> simp

/-- A byte is stored only while fewer than 256 are in the buffer (R101). -/
theorem decByte_rxbuf_stepBelow (b : Byte) (s : State) : Memory.StepBelow 256 s.rxbuf (decByte b s).rxbuf := by
  unfold decByte
  split
  · unfold State.rxStore
    split
    case isTrue hl => exact .inr (.inr ⟨_, _, hl, rfl⟩)
    case isFalse => exact .inl rfl
  · exact .inl rfl

theorem step_stores {s t : State} (hstep : step s = .next t) :
    Memory.StepBelow 123 s.vbuf t.vbuf ∧ Memory.StepBelow 256 s.rxbuf t.rxbuf := by
  cases step_effect hstep with
  | reset _ ht => subst ht; exact ⟨.inr (.inl rfl), .inr (.inl rfl)⟩
  | command _ _ _ _ _ _ _ _ ht => exact ⟨ht.vbuf_stepBelow, .inl ht.rxbuf_eq⟩
  | encoder _ _ _ ht =>
    obtain rfl | ⟨e, -, -, -, rfl⟩ := ht
    · exact ⟨.inl rfl, .inl rfl⟩
    · exact ⟨.inl (by simp), .inl (by simp)⟩
  | byte _ b _ _ _ _ ht =>
    subst ht
    obtain ⟨-, -, -, -, -, -, -, -, -, hv, -⟩ := decByte_sameEncoder b { s with turns := _, rxQ := _ }
    exact ⟨.inl hv, decByte_rxbuf_stepBelow b _⟩
  | idle _ _ ht | noCommand _ _ _ _ ht | noByte _ _ _ _ ht | withdrawn _ _ _ ht | txReady _ _ _ _ ht
  | raised _ _ _ ht => subst ht; exact ⟨.inl rfl, .inl rfl⟩

theorem exec_vbufWr_badIndex {s : State} {index : Word16} (value : Word16) (hs : s.encSt = .idle)
    (hi : 122 < index.toNat) : exec (.vbufWr index value) s = .next (s.encFault .badIndex) := by
  have hr : indexOk index = false := decide_eq_false (Nat.not_lt.mpr hi)
  simp [exec, execVbufWr, whenIdle, hs, hr]

/-- A byte that finds 256 bytes in the buffer is dropped (R101). -/
theorem decByte_of_full {s : State} (b : Byte) (hd : s.decSt = .recv) (hl : s.rxLen.val = 256) :
    decByte b s = { s with rxOvf := true } := by
  simp [decByte, State.rxStore, hd, hl]

/-! ### Reads of `VBUF` -/

/-- The entry that `ENC.EMIT` reads is one of the frame's values (R54, R83). -/
theorem State.InFlight.vbufIndexRead_lt {s : State} (h : s.InFlight) {k : Nat} (hk : s.vbufIndexRead = some k) :
    k < 123 := by
  unfold State.vbufIndexRead at hk
  split at hk
  case isFalse => cases hk
  case isTrue hc =>
    obtain ⟨hop, hlo, hhi⟩ := hc
    obtain rfl := Option.some.inj hk
    have hlen := h.len
    have hcount := h.count
    rw [hop] at hlen hcount
    have hn := (countOk_wm.mp hcount).2
    simp only [frameLen] at hlen
    omega

/-- A legal frame depends on the entries of `VBUF` only (R54, R57). -/
theorem frame_congr {op : ReqOp} {arg : Word16} (h : countOk op arg = true) (slave : Byte) (addr : Word16)
    {v v' : Nat → Word16} (hv : ∀ k, k < 123 → v k = v' k) :
    frame op slave addr arg v = frame op slave addr arg v' := by
  cases op with
  | rh | ws | id => rfl
  | wm =>
    have hn := (countOk_wm.mp h).2
    have hvals : (List.range arg.toNat).flatMap (fun k => be16Bytes (v k))
        = (List.range arg.toNat).flatMap (fun k => be16Bytes (v' k)) := by
      refine List.flatMap_congr fun k hk => ?_
      rw [hv k (by have := List.mem_range.mp hk; omega)]
    simp only [frame, frameBody, hvals]

/-! ### Reads of `RXBUF` -/

/-- A layout's verdict is `Ok` only where its conditions hold (R110 to R113). -/
theorem of_verdict_ok {c : Prop} [Decidable c]
    (h : (if c then (.ok, 0#8) else (.malformed, 0#8) : ResStatus × Byte).1 = .ok) : c := by
  by_contra hc
  rw [if_neg hc] at h
  cases h

/-- The length of a frame that `Classify` answers `Ok`, by the layout of the expected function (R110 to R113). -/
theorem classify_ok_length {r : List Byte} {ovf : Bool} {es ef : Byte} (h : (classify r ovf es ef).1 = .ok) :
    ((ef = Config.fcRh ∨ ef = Config.fcId) ∧ 5 ≤ r.length ∧ r.length = 5 + (rxByte r 2).toNat)
      ∨ ((ef = Config.fcWs ∨ ef = Config.fcWm) ∧ r.length = 8) := by
  unfold classify at h
  split at h; · cases h
  split at h; · cases h
  split at h; · cases h
  split at h
  · unfold verdictExc at h
    split at h <;> cases h
  split at h; · cases h
  split at h
  case isTrue hf =>
    obtain ⟨hlen, -, -, -, heq⟩ := of_verdict_ok h
    exact .inl ⟨.inl hf, hlen, heq⟩
  split at h
  case isTrue hf => exact .inr ⟨.inl hf, of_verdict_ok h⟩
  split at h
  case isTrue hf => exact .inr ⟨.inr hf, of_verdict_ok h⟩
  split at h
  case isTrue hf => exact .inl ⟨.inr hf, of_verdict_ok h⟩
  case isFalse => cases h

/-- The frame behind an `Ok` result has the length of the expected function's layout (R102, R114). -/
theorem State.DecInv.ok_length {s : State} (h : s.DecInv) (hd : s.decSt = .done) (hr : s.resStatus = .ok) :
    ((s.expFunc = Config.fcRh ∨ s.expFunc = Config.fcId) ∧ s.rxLen.val = 5 + (s.rxRead 2).toNat)
      ∨ ((s.expFunc = Config.fcWs ∨ s.expFunc = Config.fcWm) ∧ s.rxLen.val = 8) := by
  have hok : (classify s.rxFrame s.rxOvf s.expSlave s.expFunc).1 = .ok := by rw [← h.resultIsVerdict hd]; exact hr
  have hlen := classify_ok_length hok
  rw [State.rxFrame_length] at hlen
  refine hlen.imp_left fun ⟨hf, h5, heq⟩ => ⟨hf, ?_⟩
  rwa [rxByte_rxFrame s 2 (by omega)] at heq

/-- A frame with a byte count is as long as its byte 2 says (R110, R113). -/
theorem State.DecInv.counted_length {s : State} (h : s.DecInv) (hd : s.decSt = .done) (hr : s.resStatus = .ok)
    (hf : s.expFunc = Config.fcRh ∨ s.expFunc = Config.fcId) : s.rxLen.val = 5 + (s.rxRead 2).toNat := by
  obtain ⟨-, hlen⟩ | ⟨hw, -⟩ := h.ok_length hd hr
  · exact hlen
  · obtain hf | hf := hf <;> rw [hf] at hw <;> exact absurd hw (by decide)

/-- `RES_WORD(i)` reads the received bytes only (R22, R110). -/
theorem State.DecInv.resWord_read_lt {s : State} (h : s.DecInv) (hd : s.decSt = .done) (hr : s.resStatus = .ok)
    {i : Nat} (hi : i < s.resNwords.toNat) : 4 + 2 * i < s.rxLen.val := by
  by_cases hf : s.expFunc = Config.fcRh
  · rw [State.resNwords_toNat (s.viewsOn_iff.mpr ⟨hd, hr⟩) hf] at hi
    have hlen := h.counted_length hd hr (.inl hf)
    omega
  · rw [(State.resWord_off i fun hon => hf hon.2).1] at hi
    exact absurd hi (Nat.not_lt_zero i)

/-- `RES_BYTE(i)` reads the received bytes only (R22, R113). -/
theorem State.DecInv.resByte_read_lt {s : State} (h : s.DecInv) (hd : s.decSt = .done) (hr : s.resStatus = .ok)
    {i : Nat} (hi : i < s.resNbytes.toNat) : 3 + i < s.rxLen.val := by
  by_cases hf : s.expFunc = Config.fcId
  · rw [State.resNbytes_eq (s.viewsOn_iff.mpr ⟨hd, hr⟩) hf] at hi
    have hlen := h.counted_length hd hr (.inr hf)
    omega
  · rw [(State.resByte_off i fun hon => hf hon.2).1] at hi
    exact absurd hi (Nat.not_lt_zero i)

/-- `RES_ADDR` and `RES_ARG` read the received bytes only (R22, R111, R112). -/
theorem State.DecInv.resArg_read_lt {s : State} (h : s.DecInv) (hd : s.decSt = .done) (hr : s.resStatus = .ok)
    (hf : s.expFunc = Config.fcWs ∨ s.expFunc = Config.fcWm) : 5 < s.rxLen.val := by
  obtain ⟨hrd, -⟩ | ⟨-, hlen⟩ := h.ok_length hd hr
  · obtain hf | hf := hf <;> rw [hf] at hrd <;> exact absurd hrd (by decide)
  · omega

/-- Settles O13: the two refusals, the writes of a step by `Memory.StepBelow`, the reads of a frame in flight by its
count, and those of the views by the length of the layout they show. -/
theorem outOfRangeWritesNothing : Obligations.OutOfRangeWritesNothing := by
  refine ⟨fun s index value hs hi => ⟨_, exec_vbufWr_badIndex value hs hi, rfl⟩,
    fun s b bs ts hrst hn hq hd hl => ?_, fun s t hv hb hstep i => ?_, fun s h hs k hk => ?_,
    fun op slave addr arg v v' hc hv => frame_congr hc slave addr hv,
    fun s h => ⟨rfl, Nat.le_of_lt_succ s.rxLen.isLt, fun hd hr => ?_⟩⟩
  · rw [step_byte hrst hn hq]
    exact congrArg _ (decByte_of_full b hd hl)
  · obtain ⟨hvbuf, hrxbuf⟩ := step_stores hstep
    exact ⟨hvbuf.lookup_none hv, hrxbuf.lookup_none hb⟩
  · exact ((State.inv_iff.mp h).1.inFlight hs).vbufIndexRead_lt hk
  · have hdec := (State.inv_iff.mp h).2
    refine ⟨?_, fun i hi => hdec.resWord_read_lt hd hr hi, hdec.resArg_read_lt hd hr,
      fun i hi => hdec.resByte_read_lt hd hr hi⟩
    obtain ⟨-, hlen⟩ | ⟨-, hlen⟩ := hdec.ok_length hd hr <;> omega

end Sys2Proof.Machine

/-! PROOFS. The units of R41: which instructions belong to which unit, and that the other unit is left as it is. -/

namespace Sys2Proof.Machine

/-- The instructions of the encoder: its commands, `VBUF.WR` and the request rows (R41). -/
def encoderInstr : Instr → Bool
  | .encRh _ _ _ | .encWs _ _ _ | .encWm _ _ _ | .encId _ | .vbufWr _ _ | .reqRh | .reqWs | .reqWm | .reqId => true
  | .decArm _ _ | .decEnd | .cmdRsv | .rspRh | .rspWs | .rspWm | .rspId | .rspExc _ => false

/-- The instructions of the parser: its commands and the response rows (R41). -/
def parserInstr : Instr → Bool
  | .decArm _ _ | .decEnd | .rspRh | .rspWs | .rspWm | .rspId | .rspExc _ => true
  | .encRh _ _ _ | .encWs _ _ _ | .encWm _ _ _ | .encId _ | .vbufWr _ _ | .cmdRsv | .reqRh | .reqWs | .reqWm
  | .reqId => false

@[simp] theorem encoderInstr_encInstr (op : ReqOp) (slave : Byte) (addr arg : Word16) :
    encoderInstr (encInstr op slave addr arg) = true := by cases op <;> rfl

@[simp] theorem encoderInstr_reqInstr (op : ReqOp) : encoderInstr (reqInstr op) = true := by cases op <;> rfl

/-- No instruction belongs to both units (R41). -/
theorem parserInstr_of_encoderInstr {i : Instr} (h : encoderInstr i = true) : parserInstr i = false := by
  cases i with
  | encRh | encWs | encWm | encId | vbufWr | reqRh | reqWs | reqWm | reqId => rfl
  | decArm | decEnd | cmdRsv | rspRh | rspWs | rspWm | rspId | rspExc => cases h

/-- The row a buffer selects is the parser's. -/
theorem parserInstr_of_parserSelect {s : State} {i : Instr} (h : parserSelect s = some i) : parserInstr i = true := by
  obtain rfl | rfl | rfl | rfl | ⟨fn, rfl⟩ := parserSelect_row h <;> rfl

/-- Only the encoder's instructions write its registers (R41). -/
theorem ExecEffect.sameEncoder {i : Instr} {s t : State} (h : ExecEffect i s t) (hi : encoderInstr i = false) :
    SameEncoder s t := by
  cases h with
  | started | badCount | emitted => simp at hi
  | vbufWritten | badIndex => cases hi
  | held | heldEnd | armed | ended | reserved => simp [SameEncoder]

/-- Only the parser's instructions write its registers (R41). -/
theorem ExecEffect.sameParser {i : Instr} {s t : State} (h : ExecEffect i s t) (hi : parserInstr i = false) :
    SameParser s t := by
  cases h with
  | armed => cases hi
  | ended _ _ _ hend =>
    have hp : parserInstr i = true := hend.elim (· ▸ rfl) parserInstr_of_parserSelect
    rw [hi] at hp
    cases hp
  | held | heldEnd | started | badCount | vbufWritten | badIndex | reserved | emitted => simp [SameParser]

/-- No instruction is a `RESET` (R150). -/
theorem ExecEffect.epoch_eq {i : Instr} {s t : State} (h : ExecEffect i s t) : t.epoch = s.epoch := by
  cases h <;> simp

/-- `ILLCMD` is written by `CMD.RSV` alone (R125). -/
theorem ExecEffect.illCmd_eq {i : Instr} {s t : State} (h : ExecEffect i s t) (hi : i ≠ .cmdRsv) :
    t.illCmd = s.illCmd := by
  cases h with
  | reserved => exact absurd rfl hi
  | held | heldEnd | started | badCount | vbufWritten | badIndex | armed | ended | emitted => simp

/-- Settles O52: every instruction belongs to one unit or to none, and leaves the registers of a unit it does not belong
to. -/
theorem unitsIndependent : Obligations.UnitsIndependent := by
  intro i s t hexec
  have h := exec_effect hexec
  refine ⟨?_, h.sameInputs, h.epoch_eq, fun hi => h.sameEncoder ?_, fun hi => h.sameParser ?_, h.illCmd_eq⟩
  · cases hi : encoderInstr i with
    | true => exact .inl (h.sameParser (parserInstr_of_encoderInstr hi))
    | false => exact .inr (h.sameEncoder hi)
  · obtain rfl | ⟨es, ef, rfl⟩ | rfl | rfl | rfl | rfl | rfl | ⟨fn, rfl⟩ := hi <;> rfl
  · obtain ⟨op, sl, a, g, rfl | rfl⟩ | rfl | ⟨k, v, rfl⟩ := hi
    · exact parserInstr_of_encoderInstr (by simp)
    · exact parserInstr_of_encoderInstr (by simp)
    · rfl
    · rfl

end Sys2Proof.Machine

/-! PROOFS. The turn of the link and the turn of the encoder (R41): neither asks for what the other moves. -/

namespace Sys2Proof.Machine

/-! ### The turn of the link -/

/-- What the link's turn does: its next byte, if there is one, is consumed and offered to the parser (R10, R101,
R103). -/
def State.receive (s : State) : State :=
  match s.rxQ with
  | [] => s
  | b :: bs => decByte b { s with rxQ := bs }

theorem State.receive_nil {s : State} (hq : s.rxQ = []) : s.receive = s := by
  unfold State.receive
  simp only [hq]

theorem State.receive_cons {s : State} {b : Byte} {bs : List Byte} (hq : s.rxQ = b :: bs) :
    s.receive = decByte b { s with rxQ := bs } := by
  unfold State.receive
  simp only [hq]

theorem step_link {s : State} {ts : List Turn} (hrst : s.rst = false) (hn : s.turns = .link :: ts) :
    step s = .next (State.receive { s with turns := ts }) := by
  rw [step_turn hrst hn]
  unfold fetchTurn State.receive
  cases s.rxQ <;> rfl

/-- `s` with the registers of `p` that the link's turn moves or asks for (R101, R103). -/
def State.withLinkOf (s p : State) : State :=
  { s with decSt := p.decSt, rxbuf := p.rxbuf, rxLen := p.rxLen, rxOvf := p.rxOvf, rxQ := p.rxQ }

/-- The link's turn asks for no other register, and moves no other. -/
theorem State.receive_withLinkOf (s p : State) : (s.withLinkOf p).receive = s.withLinkOf p.receive := by
  cases hq : p.rxQ with
  | nil => rw [State.receive_nil hq, State.receive_nil (s := s.withLinkOf p) hq]
  | cons b bs =>
    rw [State.receive_cons hq, State.receive_cons (s := s.withLinkOf p) hq]
    by_cases hd : p.decSt = .recv
    · by_cases hl : p.rxLen.val < 256
      · simp [decByte, State.rxStore, State.withLinkOf, hd, hl]
      · simp [decByte, State.rxStore, State.withLinkOf, hd, hl]
    · simp [decByte, State.withLinkOf, hd]

theorem State.receive_eq (s : State) : s.receive = s.withLinkOf s.receive := s.receive_withLinkOf s

/-- The link's turn commutes with an operation that has no part in the link's registers. -/
theorem State.receive_comm {f : State → State} (hf : ∀ s p, f (s.withLinkOf p) = (f s).withLinkOf p) (s : State) :
    (f s).receive = f s.receive :=
  calc (f s).receive = ((f s).withLinkOf s).receive := congrArg State.receive (hf s s)
    _ = (f s).withLinkOf s.receive := (f s).receive_withLinkOf s
    _ = f (s.withLinkOf s.receive) := (hf s s.receive).symm
    _ = f s.receive := congrArg f s.receive_eq.symm

/-! ### The turn of the encoder -/

/-- The answer of an outcome carried on: `f` of the next state, and a stop as it is. -/
def mapNext (f : State → State) : Host.Outcome State Fault Refusal → Host.Outcome State Fault Refusal
  | .next t => .next (f t)
  | .fault r => .fault r
  | .refused r => .refused r

/-- `ENC.EMIT` commutes with an operation that the emission, and the writes of sending it, have no part in (R86). -/
theorem exec_reqInstr_comm {f : State → State} {op : ReqOp} {s : State} (hr : emitReady op (f s) = emitReady op s)
    (he : (f s).emission = s.emission)
    (hs : ∀ e, (f s).noteUnwritten.sendByte e = f (s.noteUnwritten.sendByte e)) :
    exec (reqInstr op) (f s) = mapNext f (exec (reqInstr op) s) := by
  have hx (u : State) : exec (reqInstr op) u = if emitReady op u then emit u else .next u := by cases op <;> rfl
  rw [hx, hx, hr]
  cases emitReady op s with
  | false => rfl
  | true =>
    simp only [if_true, emit, he]
    cases s.emission with
    | none => rfl
    | some e => exact congrArg _ (hs e)

/-- The note of an unwritten entry is a record, made by what `ENC.EMIT` reads and what `VBUF` holds (R153). -/
theorem State.noteUnwritten_comm {f : State → State} {s : State} (hi : (f s).vbufIndexRead = s.vbufIndexRead)
    (hv : (f s).vbuf = s.vbuf) (hr : ∀ r, (f s).record r = f (s.record r)) :
    (f s).noteUnwritten = f s.noteUnwritten := by
  unfold State.noteUnwritten
  rw [hi]
  cases s.vbufIndexRead with
  | none => rfl
  | some k =>
    simp only [hv, hr]
    exact (apply_ite f _ _ _).symm

/-- Sending a byte has no part in the link's registers (R41, R86). -/
theorem State.send_withLinkOf (e : Emission) (s p : State) :
    (s.withLinkOf p).noteUnwritten.sendByte e = (s.noteUnwritten.sendByte e).withLinkOf p :=
  congrArg (State.sendByte e)
    (State.noteUnwritten_comm (f := (State.withLinkOf · p)) (s := s) rfl rfl fun _ => rfl)

theorem State.send_turns (e : Emission) (s : State) (ts : List Turn) :
    (State.noteUnwritten { s with turns := ts }).sendByte e = { s.noteUnwritten.sendByte e with turns := ts } :=
  congrArg (State.sendByte e)
    (State.noteUnwritten_comm (f := ({ · with turns := ts })) (s := s) rfl rfl fun _ => rfl)

/-! ### The two turns -/

/-- A run of two steps whose second, where it comes to one, leaves `f` of the state that the first leaves. -/
theorem run_two_eq_mapNext {f : State → State} {s : State} (h : ∀ t, step s = .next t → step t = .next (f t)) :
    core.run 2 s = mapNext f (step s) := by
  cases hs : step s with
  | next t => rw [run_next 1 hs, run_one, h t hs]; rfl
  | fault | refused =>
    refine (Host.Core.run.eq_2 core s 1).trans ?_
    rw [show core.step s = _ from hs]
    rfl

/-- What the link's turn does beside a turn of the encoder, which leaves the schedule to it. -/
def State.linkTurn (ts : List Turn) (s : State) : State := State.receive { s with turns := ts }

/-- The link's turn moves its own registers and the schedule only. -/
theorem State.linkTurn_eq (ts : List Turn) (s : State) :
    s.linkTurn ts = State.withLinkOf { s with turns := ts } (s.linkTurn ts) := State.receive_eq _

theorem State.linkTurn_turns (us ts : List Turn) (s : State) : { s.linkTurn us with turns := ts } = s.linkTurn ts :=
  (State.receive_comm (f := ({ · with turns := ts })) (fun _ _ => rfl) { s with turns := us }).symm

theorem State.linkTurn_send (ts : List Turn) (e : Emission) (s : State) :
    (s.linkTurn ts).noteUnwritten.sendByte e = (s.noteUnwritten.sendByte e).linkTurn ts :=
  calc (s.linkTurn ts).noteUnwritten.sendByte e
      = State.receive ((State.noteUnwritten { s with turns := ts }).sendByte e) :=
        (State.receive_comm (f := (·.noteUnwritten.sendByte e)) (State.send_withLinkOf e) { s with turns := ts }).symm
    _ = (s.noteUnwritten.sendByte e).linkTurn ts := congrArg State.receive (State.send_turns e s ts)

/-- A request row and the link's turn commute (R41). -/
theorem exec_reqInstr_linkTurn (op : ReqOp) (ts : List Turn) (s : State) :
    exec (reqInstr op) (s.linkTurn ts) = mapNext (State.linkTurn ts) (exec (reqInstr op) s) :=
  exec_reqInstr_comm (by rw [State.linkTurn_eq]; rfl) (by rw [State.linkTurn_eq]; rfl) (State.linkTurn_send ts · s)

theorem run_enc_link {s : State} {ts : List Turn} (hrst : s.rst = false) (hn : s.turns = .enc :: .link :: ts) :
    core.run 2 s = mapNext (State.linkTurn ts) (exec (reqInstr s.cmdOp) { s with turns := .link :: ts }) := by
  rw [← step_encoder hrst hn]
  refine run_two_eq_mapNext fun t ht => ?_
  rw [step_encoder hrst hn] at ht
  obtain ⟨hr, -, -, -, -, ht⟩ := (exec_effect ht).sameInputs
  exact step_link (hr.trans hrst) ht

theorem run_link_enc {s : State} {ts : List Turn} (hrst : s.rst = false) (hn : s.turns = .link :: .enc :: ts) :
    core.run 2 s = exec (reqInstr s.cmdOp) (s.linkTurn ts) := by
  have heq := s.linkTurn_eq (.enc :: ts)
  have hr : (s.linkTurn (.enc :: ts)).rst = false := by rw [heq]; exact hrst
  have ht : (s.linkTurn (.enc :: ts)).turns = .enc :: ts := by rw [heq]; rfl
  have hop : (s.linkTurn (.enc :: ts)).cmdOp = s.cmdOp := by rw [heq]; rfl
  rw [run_next 1 (step_link hrst hn), run_one]
  exact (step_encoder hr ht).trans (by rw [State.linkTurn_turns, hop])

/-- Settles O53: the encoder's row answers the same before the link's turn and after it, and the link's turn does the
same on either side. -/
theorem emitAndByteCommute : Obligations.EmitAndByteCommute := by
  intro s ts
  rw [run_enc_link rfl rfl, run_link_enc rfl rfl, ← exec_reqInstr_linkTurn]
  rfl

end Sys2Proof.Machine

/-! PROOFS. The command word (R45 to R47): its code and its fields, the match of R46, and the command it decodes to. -/

namespace Sys2Proof

/-! ### The code and the fields of a word -/

/-- Under the mask of R46 a word keeps its code alone. -/
theorem and_codeMask (w : CmdWord) : w &&& 0x70000000000#43 = cmdCode w ++ 0#40 :=
  have hw : w = w.extractLsb' 40 3 ++ w.extractLsb' 0 40 :=
    BitVec.extractLsb'_eq_self.symm.trans
      (BitVec.extractLsb'_append_extractLsb'_eq_extractLsb' (start₁ := 0) (len₁ := 40) (len₂ := 3) rfl).symm
  calc w &&& 0x70000000000#43
      = (w.extractLsb' 40 3 ++ w.extractLsb' 0 40) &&& (BitVec.allOnes 3 ++ 0#40) :=
        congrArg (· &&& 0x70000000000#43) hw
    _ = (w.extractLsb' 40 3 &&& BitVec.allOnes 3) ++ (w.extractLsb' 0 40 &&& 0#40) := BitVec.and_append
    _ = cmdCode w ++ 0#40 := by rw [BitVec.and_allOnes, BitVec.and_zero]; rfl

/-- The match of R46 is the code in its place. -/
theorem cmdCode_of_match {w : CmdWord} {c : BitVec 3} (h : w &&& 0x70000000000#43 = c ++ 0#40) : cmdCode w = c :=
  (BitVec.append_left_inj _).mp ((and_codeMask w).symm.trans h)

@[simp] theorem cmdCode_packCommand (code : BitVec 3) (slave : Byte) (addr arg : Word16) :
    cmdCode (packCommand code slave addr arg) = code :=
  calc ((code ++ slave ++ addr) ++ arg).extractLsb' 40 3
      = (code ++ slave ++ addr).extractLsb' 24 3 := BitVec.extractLsb'_append_eq_of_le (by decide)
    _ = (code ++ slave).extractLsb' 8 3 := BitVec.extractLsb'_append_eq_of_le (by decide)
    _ = code := BitVec.extractLsb'_append_eq_left

@[simp] theorem cmdSlave_packCommand (code : BitVec 3) (slave : Byte) (addr arg : Word16) :
    cmdSlave (packCommand code slave addr arg) = slave :=
  calc ((code ++ slave ++ addr) ++ arg).extractLsb' 32 8
      = (code ++ slave ++ addr).extractLsb' 16 8 := BitVec.extractLsb'_append_eq_of_le (by decide)
    _ = (code ++ slave).extractLsb' 0 8 := BitVec.extractLsb'_append_eq_of_le (by decide)
    _ = slave := BitVec.extractLsb'_append_eq_right

@[simp] theorem cmdAddr_packCommand (code : BitVec 3) (slave : Byte) (addr arg : Word16) :
    cmdAddr (packCommand code slave addr arg) = addr :=
  calc ((code ++ slave ++ addr) ++ arg).extractLsb' 16 16
      = (code ++ slave ++ addr).extractLsb' 0 16 := BitVec.extractLsb'_append_eq_of_le (by decide)
    _ = addr := BitVec.extractLsb'_append_eq_right

@[simp] theorem cmdArg_packCommand (code : BitVec 3) (slave : Byte) (addr arg : Word16) :
    cmdArg (packCommand code slave addr arg) = arg := BitVec.extractLsb'_append_eq_right

@[simp] theorem cmdFunc_packCommand (code : BitVec 3) (slave : Byte) (addr arg : Word16) :
    cmdFunc (packCommand code slave addr arg) = arg.extractLsb' 0 8 :=
  BitVec.extractLsb'_append_eq_of_add_le (by decide)

/-! ### The command of each code -/

section
variable {w : CmdWord}

theorem decode_encRh (h : cmdCode w = 0#3) :
    decode (.command w) = .ok (.encRh (cmdSlave w) (cmdAddr w) (cmdArg w)) := by simp [decode, decodeCommand, h]
theorem decode_encWs (h : cmdCode w = 1#3) :
    decode (.command w) = .ok (.encWs (cmdSlave w) (cmdAddr w) (cmdArg w)) := by simp [decode, decodeCommand, h]
theorem decode_encWm (h : cmdCode w = 2#3) :
    decode (.command w) = .ok (.encWm (cmdSlave w) (cmdAddr w) (cmdArg w)) := by simp [decode, decodeCommand, h]
theorem decode_encId (h : cmdCode w = 3#3) : decode (.command w) = .ok (.encId (cmdSlave w)) := by
  simp [decode, decodeCommand, h]
theorem decode_decArm (h : cmdCode w = 4#3) : decode (.command w) = .ok (.decArm (cmdSlave w) (cmdFunc w)) := by
  simp [decode, decodeCommand, h]
theorem decode_decEnd (h : cmdCode w = 5#3) : decode (.command w) = .ok .decEnd := by simp [decode, decodeCommand, h]
theorem decode_vbufWr (h : cmdCode w = 6#3) : decode (.command w) = .ok (.vbufWr (cmdAddr w) (cmdArg w)) := by
  simp [decode, decodeCommand, h]
theorem decode_cmdRsv (h : cmdCode w = 7#3) : decode (.command w) = .ok .cmdRsv := by simp [decode, decodeCommand, h]

end

/-- Settles O3: the match gives the code, and the code the command. -/
theorem matchAndMaskSelectCommand : Obligations.MatchAndMaskSelectCommand := by
  intro w
  exact ⟨fun h => decode_encRh (cmdCode_of_match h), fun h => decode_encWs (cmdCode_of_match h),
    fun h => decode_encWm (cmdCode_of_match h), fun h => decode_encId (cmdCode_of_match h),
    fun h => decode_decArm (cmdCode_of_match h), fun h => decode_decEnd (cmdCode_of_match h),
    fun h => decode_vbufWr (cmdCode_of_match h), fun h => decode_cmdRsv (cmdCode_of_match h)⟩

theorem code_cases : ∀ c : BitVec 3,
    c = 0#3 ∨ c = 1#3 ∨ c = 2#3 ∨ c = 3#3 ∨ c = 4#3 ∨ c = 5#3 ∨ c = 6#3 ∨ c = 7#3 := by decide

/-- Two words of one code that agree on the fields their command uses are the same command (R47). -/
theorem decode_command_congr {w w' : CmdWord} (hc : cmdCode w' = cmdCode w)
    (hs : cmdCode w ∈ [0#3, 1#3, 2#3, 3#3, 4#3] → cmdSlave w = cmdSlave w')
    (ha : cmdCode w ∈ [0#3, 1#3, 2#3, 6#3] → cmdAddr w = cmdAddr w' ∧ cmdArg w = cmdArg w')
    (hf : cmdCode w = 4#3 → cmdFunc w = cmdFunc w') : decode (.command w) = decode (.command w') := by
  obtain h | h | h | h | h | h | h | h := code_cases (cmdCode w)
  · simp [decode_encRh h, decode_encRh (hc.trans h), h, hs, ha]
  · simp [decode_encWs h, decode_encWs (hc.trans h), h, hs, ha]
  · simp [decode_encWm h, decode_encWm (hc.trans h), h, hs, ha]
  · simp [decode_encId h, decode_encId (hc.trans h), h, hs]
  · simp [decode_decArm h, decode_decArm (hc.trans h), h, hs, hf]
  · rw [decode_decEnd h, decode_decEnd (hc.trans h)]
  · simp [decode_vbufWr h, decode_vbufWr (hc.trans h), h, ha]
  · rw [decode_cmdRsv h, decode_cmdRsv (hc.trans h)]

/-- Settles O4, for the words put together from the fields. -/
theorem ignoredFieldsIgnored : Obligations.IgnoredFieldsIgnored := by
  intro code slave slave' addr addr' arg arg' hs ha hf
  change decode (.command (packCommand code slave addr arg)) = decode (.command (packCommand code slave' addr' arg'))
  exact decode_command_congr (by simp) (by simpa using hs) (by simpa using ha) (by simpa using hf)

end Sys2Proof

/-! PROOFS. The assembler (R66): the fields of the word that a line assembles to. -/

namespace Sys2Proof

/-- The weights of the fields in a word (R45). -/
theorem packCommand_toNat (code : BitVec 3) (slave : Byte) (addr arg : Word16) :
    (packCommand code slave addr arg).toNat
      = code.toNat * 2 ^ 40 + slave.toNat * 2 ^ 32 + addr.toNat * 2 ^ 16 + arg.toNat := by
  simp only [packCommand, BitVec.toNat_append]
  rw [← Nat.shiftLeft_add_eq_or_of_lt slave.isLt, ← Nat.shiftLeft_add_eq_or_of_lt addr.isLt,
    ← Nat.shiftLeft_add_eq_or_of_lt arg.isLt]
  simp only [Nat.shiftLeft_eq]
  omega

/-- A word whose fields are put in as numbers in range (R45). -/
theorem packCommand_ofNat_toNat (code : BitVec 3) {s a g : Nat} (hs : s < 256) (ha : a < 65536) (hg : g < 65536) :
    (packCommand code (.ofNat 8 s) (.ofNat 16 a) (.ofNat 16 g)).toNat
      = code.toNat * 2 ^ 40 + s * 2 ^ 32 + a * 2 ^ 16 + g := by
  rw [packCommand_toNat, BitVec.toNat_ofNat, BitVec.toNat_ofNat, BitVec.toNat_ofNat, Nat.mod_eq_of_lt hs,
    Nat.mod_eq_of_lt ha, Nat.mod_eq_of_lt hg]

section
variable {s a g : Nat}

theorem operandsFit_triple (hs : s < 256) (ha : a < 65536) (hg : g < 65536) :
    operandsFit [8, 16, 16] [s, a, g] = true := by simp [operandsFit, hs, ha, hg]

theorem assemble_encRh (hs : s < 256) (ha : a < 65536) (hg : g < 65536) :
    assemble ⟨.encRh, [s, a, g]⟩ = some (packCommand 0#3 (.ofNat 8 s) (.ofNat 16 a) (.ofNat 16 g)) :=
  if_pos (operandsFit_triple hs ha hg)
theorem assemble_encWs (hs : s < 256) (ha : a < 65536) (hg : g < 65536) :
    assemble ⟨.encWs, [s, a, g]⟩ = some (packCommand 1#3 (.ofNat 8 s) (.ofNat 16 a) (.ofNat 16 g)) :=
  if_pos (operandsFit_triple hs ha hg)
theorem assemble_encWm (hs : s < 256) (ha : a < 65536) (hg : g < 65536) :
    assemble ⟨.encWm, [s, a, g]⟩ = some (packCommand 2#3 (.ofNat 8 s) (.ofNat 16 a) (.ofNat 16 g)) :=
  if_pos (operandsFit_triple hs ha hg)
theorem assemble_encId (hs : s < 256) : assemble ⟨.encId, [s]⟩ = some (packCommand 3#3 (.ofNat 8 s) 0#16 0#16) :=
  if_pos (show operandsFit [8] [s] = true by simp [operandsFit, hs])
theorem assemble_decArm (hs : s < 256) (hg : g < 256) :
    assemble ⟨.decArm, [s, g]⟩ = some (packCommand 4#3 (.ofNat 8 s) 0#16 (.ofNat 16 g)) :=
  if_pos (show operandsFit [8, 8] [s, g] = true by simp [operandsFit, hs, hg])
theorem assemble_decEnd : assemble ⟨.decEnd, []⟩ = some (packCommand 5#3 0#8 0#16 0#16) := rfl
theorem assemble_vbufWr (ha : a < 65536) (hg : g < 65536) :
    assemble ⟨.vbufWr, [a, g]⟩ = some (packCommand 6#3 0#8 (.ofNat 16 a) (.ofNat 16 g)) :=
  if_pos (show operandsFit [16, 16] [a, g] = true by simp [operandsFit, ha, hg])
theorem assemble_cmdRsv : assemble ⟨.cmdRsv, []⟩ = some (packCommand 7#3 0#8 0#16 0#16) := rfl

end

/-- Settles O6: a line assembles to its row's word, whose fields have the weights of R45; the four texts are
evaluated. -/
theorem assembledFields : Obligations.AssembledFields := by
  refine ⟨fun s a g hs ha hg => ⟨?_, ?_, ?_, ?_, fun hf => ?_, ?_, ?_, ?_⟩,
    by decide +kernel, by decide +kernel, by decide +kernel, by decide +kernel⟩
  · rw [assemble_encRh hs ha hg]; exact congrArg some (packCommand_ofNat_toNat 0#3 hs ha hg)
  · rw [assemble_encWs hs ha hg]; exact congrArg some (packCommand_ofNat_toNat 1#3 hs ha hg)
  · rw [assemble_encWm hs ha hg]; exact congrArg some (packCommand_ofNat_toNat 2#3 hs ha hg)
  · rw [assemble_encId hs]
    simpa using packCommand_ofNat_toNat 3#3 hs (a := 0) (g := 0) (by decide) (by decide)
  · rw [assemble_decArm hs hf]
    simpa using packCommand_ofNat_toNat 4#3 hs (a := 0) (by decide) hg
  · rw [assemble_decEnd]; decide
  · rw [assemble_vbufWr ha hg]
    simpa using packCommand_ofNat_toNat 6#3 (s := 0) (by decide) ha hg
  · rw [assemble_cmdRsv]; decide

end Sys2Proof

/-! PROOFS. The function codes (R49): the row of a function byte on either stream, and a byte without a format. -/

namespace Sys2Proof.Machine

/-- The response frame row of a request, with the same function byte (R49). -/
def rspInstr : ReqOp → Instr
  | .rh => .rspRh
  | .ws => .rspWs
  | .wm => .rspWm
  | .id => .rspId

/-- Bit 7 of the function byte divides the space (R49). -/
theorem and_bit7 (fn : Byte) : fn &&& 0x80#8 = if fn.getLsbD 7 = true then 0x80#8 else 0#8 := BitVec.and_twoPow fn 7

theorem forall_ne_func_iff {fn : Byte} :
    (∀ op : ReqOp, fn ≠ op.func) ↔ fn ∉ [0x03#8, 0x06#8, 0x10#8, 0x11#8] := by
  simp only [List.mem_cons, List.not_mem_nil, or_false, not_or]
  exact ⟨fun h => ⟨h .rh, h .ws, h .wm, h .id⟩, fun ⟨h1, h2, h3, h4⟩ op => by cases op <;> assumption⟩

/-- A choice by the four function bytes, at a byte that is none of them. -/
theorem ite_func_of_ne {α : Type} {fn : Byte} (h : ∀ op : ReqOp, fn ≠ op.func) (a b c d e : α) :
    (if fn = Config.fcRh then a else if fn = Config.fcWs then b else if fn = Config.fcWm then c
      else if fn = Config.fcId then d else e) = e :=
  (if_neg (h .rh)).trans <| (if_neg (h .ws)).trans <| (if_neg (h .wm)).trans <| if_neg (h .id)

theorem decode_request_eq_ok {fn : Byte} {op : ReqOp} :
    decode (.request fn) = .ok (reqInstr op) ↔ fn = op.func := by
  constructor
  · intro h
    simp only [decode, decodeRequest] at h
    repeat' split at h
    all_goals cases op <;> cases h
    all_goals assumption
  · rintro rfl
    cases op <;> rfl

theorem decode_response_eq_ok {fn : Byte} {op : ReqOp} :
    decode (.response fn) = .ok (rspInstr op) ↔ fn = op.func := by
  constructor
  · intro h
    simp only [decode, decodeResponse] at h
    repeat' split at h
    all_goals cases op <;> cases h
    all_goals assumption
  · rintro rfl
    cases op <;> rfl

theorem decode_response_eq_exc {fn : Byte} :
    decode (.response fn) = .ok (.rspExc fn) ↔ fn.getLsbD 7 = true := by
  constructor
  · intro h
    simp only [decode, decodeResponse] at h
    repeat' split at h
    all_goals cases h
    assumption
  · exact fun h => if_pos h

theorem decode_request_eq_error {fn : Byte} (h : ∀ op : ReqOp, fn ≠ op.func) :
    decode (.request fn) = .error (.noRequestFormat fn) :=
  ite_func_of_ne h _ _ _ _ _

theorem decode_response_eq_error {fn : Byte} (h7 : fn.getLsbD 7 = false) (h : ∀ op : ReqOp, fn ≠ op.func) :
    decode (.response fn) = .error (.noResponseFormat fn) :=
  (if_neg (Bool.eq_false_iff.mp h7)).trans (ite_func_of_ne h _ _ _ _ _)

/-- A frame that passes stages 1 to 3 with a function byte of no format is `Malformed`: the byte is not `EXP_FUNC`, or
`EXP_FUNC` is unsupported (R109). -/
theorem classify_of_no_format {r : List Byte} {es ef : Byte} (hn : 4 ≤ r.length) (hc : crcGood r = true)
    (hs : rxByte r 0 = es) (h7 : (rxByte r 1).getLsbD 7 = false) (h : ∀ op : ReqOp, rxByte r 1 ≠ op.func) :
    classify r false es ef = (.malformed, 0#8) := by
  have hmin : ¬ (false = true ∨ r.length < Config.minFrame) := by simp [Config.minFrame, hn]
  unfold classify
  rw [if_neg hmin, if_neg (by simp [hc]), if_neg (not_not.mpr hs), if_neg (Bool.eq_false_iff.mp h7)]
  by_cases hf : rxByte r 1 = ef
  · rw [hf] at h
    rw [if_neg (not_not.mpr hf)]
    exact ite_func_of_ne h _ _ _ _ _
  · rw [if_pos hf]

/-- Byte 1 of a request frame is the function byte of its row (R52 to R55). -/
theorem frame_getD_one (op : ReqOp) (slave : Byte) (a g : Word16) (vbuf : Nat → Word16) :
    (frame op slave a g vbuf).getD 1 0#8 = op.func := by cases op <;> rfl

/-- Settles O5: each row by its function byte, and every byte of no row by the four it differs from. -/
theorem functionCodeMap : Obligations.FunctionCodeMap := by
  refine ⟨fun fn => ⟨decode_request_eq_ok (op := .rh), decode_request_eq_ok (op := .ws),
    decode_request_eq_ok (op := .wm), decode_request_eq_ok (op := .id), decode_response_eq_ok (op := .rh),
    decode_response_eq_ok (op := .ws), decode_response_eq_ok (op := .wm), decode_response_eq_ok (op := .id),
    ?_, fun hfn => decode_request_eq_error (forall_ne_func_iff.mpr hfn), fun hfn h7 => ?_⟩,
    fun slave a g vbuf => ⟨frame_getD_one .rh slave a g vbuf, frame_getD_one .ws slave a g vbuf,
      frame_getD_one .wm slave a g vbuf, frame_getD_one .id slave a g vbuf⟩⟩
  · rw [decode_response_eq_exc, and_bit7]
    cases fn.getLsbD 7 <;> decide
  · have hno := forall_ne_func_iff.mpr hfn
    have hbit : fn.getLsbD 7 = false := by
      rw [and_bit7] at h7
      cases hb : fn.getLsbD 7 with
      | false => rfl
      | true => rw [hb] at h7; cases h7
    refine ⟨decode_response_eq_error hbit hno, fun r ef hn hc h1 => ?_⟩
    subst h1
    exact classify_of_no_format hn hc rfl hbit hno

end Sys2Proof.Machine

/-! PROOFS. The layouts of the request frames (R52 to R55): what `ENC.EMIT` does at each byte of a frame. -/

namespace Sys2Proof.Machine

/-! ### `ENC.EMIT` by the bytes of the body -/

/-- A request row is the step `ENC.EMIT` on a frame of its layout (R57, R86). -/
theorem exec_reqInstr (op : ReqOp) (s : State) :
    exec (reqInstr op) s = if emitReady op s then emit s else .next s := by cases op <;> rfl

/-- Only the values of a WM frame are read from `VBUF` (R54). -/
theorem State.noteUnwritten_of_ne_wm {s : State} (h : s.cmdOp ≠ .wm) : s.noteUnwritten = s := by
  have hnone : s.vbufIndexRead = none := if_neg fun hc => h hc.1
  rw [State.noteUnwritten, hnone]

/-- The note of an unwritten entry moves the log only (R153). -/
theorem State.noteUnwritten_eq_withLog (s : State) :
    s.noteUnwritten = { s with faultLog := s.noteUnwritten.faultLog } := by
  obtain h | ⟨k, -, -, h⟩ := noteUnwritten_eq s
  · rw [h]
  · rw [h]; rfl

/-- The state after byte `i` of a frame with body `l`: those of the body, then the low and the high byte of `TX_CRC`
(R57, R86). -/
def State.afterByte (l : List Byte) (i : Nat) (s : State) : State :=
  { s with
    txOut := s.txOut ++ [⟨(l ++ [lo8 s.txCrc, hi8 s.txCrc]).getD i 0#8, decide (i = l.length + 1)⟩]
    txCrc := if i < l.length then crc16Update s.txCrc (l.getD i 0#8) else s.txCrc
    txIdx := BitVec.ofNat 8 (i + 1)
    encSt := if i = l.length + 1 then .idle else .send }

/-- A request row sends byte `TX_IDX` of the frame in flight (R86). -/
theorem exec_reqInstr_of_body {s : State} {op : ReqOp} {l : List Byte} {i : Nat} (hs : s.encSt = .send)
    (hr : s.txReady = true) (hop : s.cmdOp = op) (hl : s.body = l) (hn : s.txLen.toNat = l.length + 2)
    (hi : s.txIdx.toNat = i) (hlt : i < l.length + 2) :
    exec (reqInstr op) s = .next (s.noteUnwritten.afterByte l i) := by
  have hlen : s.txLen.toNat = frameLen s.cmdOp s.cmdArg := by
    rw [hn, ← hl]
    exact frameBody_length _ _ _ _ _
  have hready : emitReady op s = true := by simp [emitReady, hs, hr, hop]
  rw [exec_reqInstr, if_pos hready, emit_next.mpr ⟨_, emission_eq hlen (by omega), rfl⟩, hl, hn, hi]
  simp [State.sendByte, State.afterByte, hs, hi]

/-- The layouts that read no entry of `VBUF` leave the log as it is. -/
theorem exec_reqInstr_of_body_of_ne_wm {s : State} {op : ReqOp} {l : List Byte} {i : Nat} (hw : op ≠ .wm)
    (hs : s.encSt = .send) (hr : s.txReady = true) (hop : s.cmdOp = op) (hl : s.body = l)
    (hn : s.txLen.toNat = l.length + 2) (hi : s.txIdx.toNat = i) (hlt : i < l.length + 2) :
    exec (reqInstr op) s = .next (s.afterByte l i) := by
  rw [exec_reqInstr_of_body hs hr hop hl hn hi hlt, State.noteUnwritten_of_ne_wm (hop ▸ hw)]

/-! ### The layouts without values -/

theorem hi8_eq_zero {v : Word16} (h : v.toNat < 256) : hi8 v = 0#8 := by
  apply BitVec.eq_of_toNat_eq
  simp [hi8, Nat.shiftRight_eq_div_pow, Nat.div_eq_of_lt h]

/-- Settles O15: the body of R52. -/
theorem reqRhSendsLayout : Obligations.ReqRhSendsLayout := by
  intro s i hs hr hop hn hi hlt
  refine ⟨fun hg => hi8_eq_zero (by omega), ?_⟩
  exact exec_reqInstr_of_body_of_ne_wm (op := .rh) (by decide) hs hr hop
    (l := [s.cmdSlave, 0x03#8, hi8 s.cmdAddr, lo8 s.cmdAddr, hi8 s.cmdArg, lo8 s.cmdArg])
    (by rw [State.body, hop]; rfl) (by rw [hn]; rfl) hi hlt

/-- Settles O16: the body of R53. -/
theorem reqWsSendsLayout : Obligations.ReqWsSendsLayout := by
  intro s i hs hr hop hn hi hlt
  exact exec_reqInstr_of_body_of_ne_wm (op := .ws) (by decide) hs hr hop
    (l := [s.cmdSlave, 0x06#8, hi8 s.cmdAddr, lo8 s.cmdAddr, hi8 s.cmdArg, lo8 s.cmdArg])
    (by rw [State.body, hop]; rfl) (by rw [hn]; rfl) hi hlt

/-- Settles O18: the body of R55. -/
theorem reqIdSendsLayout : Obligations.ReqIdSendsLayout := by
  intro s i hs hr hop hn hi hlt
  exact exec_reqInstr_of_body_of_ne_wm (op := .id) (by decide) hs hr hop (l := [s.cmdSlave, 0x11#8])
    (by rw [State.body, hop]; rfl) (by rw [hn]; rfl) hi hlt

/-! ### The layout with values -/

/-- The bytes of a body and the two that end its frame (R57). -/
theorem getD_append_pair (l : List Byte) (x y : Byte) {i : Nat} (h : i < l.length + 2) :
    (l ++ [x, y]).getD i 0#8 = if i < l.length then l.getD i 0#8 else if i = l.length then x else y := by
  by_cases h1 : i < l.length
  · rw [if_pos h1, List.getD_append _ _ _ _ h1]
  · rw [if_neg h1, List.getD_append_right _ _ _ _ (by omega)]
    by_cases h2 : i = l.length
    · simp [h2]
    · rw [if_neg h2, show i - l.length = 1 by omega]; rfl

/-- The seven header bytes of a WM body (R54); a legal number of values has 0 in its high byte. -/
theorem getD_body_wm_header {slave : Byte} {addr g : Word16} {vbuf : Nat → Word16} {i : Nat} (hg : g.toNat < 256)
    (hi : i < 7) : (frameBody .wm slave addr g vbuf).getD i 0#8
      = [slave, 0x10#8, hi8 addr, lo8 addr, 0x00#8, lo8 g, BitVec.ofNat 8 (2 * g.toNat)].getD i 0#8 := by
  rw [← hi8_eq_zero hg]
  exact List.getD_append _ _ _ _ hi

/-- The value bytes of a WM body: those of `VBUF[k]` at `7+2k` and `8+2k`, high byte first (R54). -/
theorem getD_body_wm_value {slave : Byte} {addr g : Word16} {vbuf : Nat → Word16} {i : Nat} (hlo : 7 ≤ i)
    (hhi : i < 7 + 2 * g.toNat) : (frameBody .wm slave addr g vbuf).getD i 0#8
      = if i % 2 = 1 then hi8 (vbuf ((i - 7) / 2)) else lo8 (vbuf ((i - 8) / 2)) := by
  have hvalue := getElem?_values vbuf g.toNat (i - 7) (by omega)
  have hskip : (frameBody .wm slave addr g vbuf).getD i 0#8
      = ((List.range g.toNat).flatMap (fun k => be16Bytes (vbuf k))).getD (i - 7) 0#8 :=
    List.getD_append_right _ _ _ _ hlo
  rw [hskip, List.getD_eq_getElem?_getD, hvalue, Option.getD_some]
  by_cases hodd : i % 2 = 1
  · rw [if_pos hodd, if_pos (by omega)]
  · rw [if_neg hodd, if_neg (by omega), show (i - 7) / 2 = (i - 8) / 2 by omega]

/-- Settles O17: the body of R54, its header and its values; of the log the statement says nothing. -/
theorem reqWmSendsLayout : Obligations.ReqWmSendsLayout := by
  intro s i n hs hr hop hg h1 h123 hn hi hlt b
  have hbody : s.body = frameBody .wm s.cmdSlave s.cmdAddr s.cmdArg s.vbufRead := by rw [State.body, hop]
  have hlen : s.body.length = 7 + 2 * n := by
    have := frameBody_length .wm s.cmdSlave s.cmdAddr s.cmdArg s.vbufRead
    rw [← hbody, frameLen, hg] at this
    omega
  have hbyte : i < 7 + 2 * n → s.body.getD i 0#8 = b := by
    intro hin
    rw [hbody]
    by_cases h7 : i < 7
    · rw [getD_body_wm_header (by omega) h7, hg]
      exact (if_pos h7).symm
    · rw [getD_body_wm_value (by omega) (by omega)]
      exact ((if_neg h7).trans (if_pos hin)).symm
  have hsent : (s.body ++ [lo8 s.txCrc, hi8 s.txCrc]).getD i 0#8 = b := by
    rw [getD_append_pair _ _ _ (by omega), hlen]
    by_cases hin : i < 7 + 2 * n
    · rw [if_pos hin, hbyte hin]
    · rw [if_neg hin]
      exact ((if_neg (by omega)).trans (if_neg hin)).symm
  have hcrc : (if i < 7 + 2 * n then crc16Update s.txCrc (s.body.getD i 0#8) else s.txCrc)
      = if i < 7 + 2 * n then crc16Update s.txCrc b else s.txCrc :=
    ite_congr rfl (fun hin => by rw [hbyte hin]) fun _ => rfl
  refine ⟨_, exec_reqInstr_of_body (op := .wm) hs hr hop rfl (by omega) hi (by omega), ?_⟩
  rw [State.noteUnwritten_eq_withLog]
  simp only [State.afterByte, hlen, hsent, hcrc, show 7 + 2 * n + 1 = 8 + 2 * n by omega]

end Sys2Proof.Machine

/-! PROOFS. The CRC check (R74, R76): its three forms are one, and no single flipped bit passes it. -/

namespace Sys2Proof.Machine

/-! ### The forms of the check -/

theorem crcGood_iff (r : List Byte) : crcGood r = true ↔
    crc16 (r.take (r.length - 2)) = be16 (rxByte r (r.length - 1)) (rxByte r (r.length - 2)) :=
  beq_iff_eq

theorem eq_be16_iff (v : Word16) (hi lo : Byte) : v = be16 hi lo ↔ lo8 v = lo ∧ hi8 v = hi := by
  constructor
  · rintro rfl
    exact ⟨lo8_be16 hi lo, hi8_be16 hi lo⟩
  · rintro ⟨rfl, rfl⟩
    exact (be16_hi8_lo8 v).symm

/-- The last two bytes take the CRC of the body to 0 exactly when they are its bytes, low byte first (R74). -/
theorem crcGood_iff_crc16_eq_zero {r : List Byte} (h : 2 ≤ r.length) : crcGood r = true ↔ crc16 r = 0#16 := by
  have hall : crc16 r = crc16Update (crc16Update (crc16 (r.take (r.length - 2))) (rxByte r (r.length - 2)))
      (rxByte r (r.length - 1)) := by
    conv_lhs => rw [← body_append_crc r h, crc16_append]
    rfl
  rw [crcGood_iff, hall, crc16Update_twice_eq_zero]

/-- Settles O22: the byte comparisons by joining and splitting the CRC, the zero residue by its last two bytes. -/
theorem crcCheckIsZeroResidue : Obligations.CrcCheckIsZeroResidue := fun r h =>
  ⟨crcGood_iff r, (crcGood_iff r).trans (eq_be16_iff _ _ _), crcGood_iff_crc16_eq_zero (by omega)⟩

/-! ### A flipped bit -/

/-- The CRC tells sequences apart that differ in one byte only. -/
theorem crc16_injective_byte {l m : List Byte} {b b' : Byte} (h : crc16 (l ++ b :: m) = crc16 (l ++ b' :: m)) :
    b = b' := by
  rw [crc16_append, crc16_append] at h
  exact crc16Update_injective_byte (foldl_crc16Update_injective m h)

theorem xor_bit_ne_self (b : Byte) {k : Nat} (hk : k < 8) : b ^^^ (1#8 <<< k) ≠ b := by
  intro h
  have hbit := congrArg (BitVec.getLsbD · k) h
  simp [hk] at hbit

@[simp] theorem flipBit_length (r : List Byte) (j k : Nat) : (flipBit r j k).length = r.length :=
  List.length_modify _ _ _

theorem crc16_flipBit_ne {r : List Byte} {j k : Nat} (hj : j < r.length) (hk : k < 8) :
    crc16 (flipBit r j k) ≠ crc16 r := by
  obtain ⟨l, b, m, hr, -, hflip⟩ := List.exists_of_modify (fun b => b ^^^ (1#8 <<< k)) hj
  rw [flipBit, hflip, hr]
  exact fun h => xor_bit_ne_self b hk (crc16_injective_byte h)

theorem crcGood_flipBit {r : List Byte} {j k : Nat} (h : 2 ≤ r.length) (hc : crcGood r = true) (hj : j < r.length)
    (hk : k < 8) : crcGood (flipBit r j k) = false := by
  rw [crcGood_iff_crc16_eq_zero h] at hc
  rw [← Bool.not_eq_true, crcGood_iff_crc16_eq_zero (by rwa [flipBit_length]), ← hc]
  exact crc16_flipBit_ne hj hk

/-- Stage 2 of `Classify`: a frame long enough whose check fails (R106). -/
theorem classify_of_crc_bad {r : List Byte} (hn : 4 ≤ r.length) (hc : crcGood r = false) (es ef : Byte) :
    classify r false es ef = (.crcMismatch, 0#8) := by
  have hmin : ¬ (false = true ∨ r.length < Config.minFrame) := by simp [Config.minFrame, hn]
  rw [classify, if_neg hmin, if_pos hc]

/-- Settles O23: a good frame has CRC 0, one with a bit flipped has another CRC. -/
theorem singleBitFlipFailsCrc : Obligations.SingleBitFlipFailsCrc := by
  refine ⟨by decide +kernel, by decide +kernel, by decide +kernel, fun r j k hn hc hj hk => ?_⟩
  have hbad := crcGood_flipBit (by omega) hc hj hk
  exact ⟨hbad, classify_of_crc_bad (by rwa [flipBit_length]) hbad⟩

end Sys2Proof.Machine

/-! PROOFS. The encoder's commands (R80 to R85): what each answers in `IDLE`, with operands in range or not, and in
`SEND`. -/

namespace Sys2Proof.Machine

theorem exec_of_whenIdle {i : Instr} {act : State → State} {s : State} (h : exec i s = whenIdle act s)
    (hs : s.encSt = .idle) : exec i s = .next (act s) := h.trans (if_pos hs)

/-- An encode command that latches its own fields: every one but `ENC.ID` (R47, R81 to R83). -/
theorem exec_encInstr {op : ReqOp} (h : op ≠ .id) (slave : Byte) (addr arg : Word16) (s : State) :
    exec (encInstr op slave addr arg) s = whenIdle (startFrame op slave addr arg) s := by
  cases op with
  | rh | ws | wm => rfl
  | id => exact absurd rfl h

/-- An encode command with its operands in range starts its frame (R80). -/
theorem exec_encInstr_of_countOk {op : ReqOp} {arg : Word16} {s : State} (h : op ≠ .id) (hs : s.encSt = .idle)
    (hc : countOk op arg = true) (slave : Byte) (addr : Word16) :
    exec (encInstr op slave addr arg) s = .next (s.latchFrame op slave addr arg) := by
  rw [exec_of_whenIdle (exec_encInstr h slave addr arg s) hs, startFrame_ok hc]

/-- `ENC.ID` starts its frame with free values in the two registers it has no field for (R84, R80; log 4). -/
theorem exec_encId_of_idle {s : State} (hs : s.encSt = .idle) (slave : Byte) :
    exec (.encId slave) s = .next ({ s with freeCount := s.freeCount + 1 }.latchFrame .id slave
      (Config.idLatchAddr s.freeCount) (Config.idLatchArg s.freeCount)) := if_pos hs

/-- An encode command with a count out of range reports it and starts no frame (R80, R131). -/
theorem exec_encInstr_of_badCount {op : ReqOp} {arg : Word16} {s : State} (hs : s.encSt = .idle)
    (hc : countOk op arg = false) (slave : Byte) (addr : Word16) :
    exec (encInstr op slave addr arg) s = .next (s.encFault .badCount) := by
  have hop : op ≠ .id := by rintro rfl; cases hc
  rw [exec_of_whenIdle (exec_encInstr hop slave addr arg s) hs, startFrame_bad hc]

/-- An encode command in `SEND` is held (R80). -/
theorem exec_encInstr_of_send {s : State} (hs : s.encSt = .send) (op : ReqOp) (slave : Byte) (addr arg : Word16) :
    exec (encInstr op slave addr arg) s = .next s :=
  exec_of_not_ready (by simp [ready_encInstr, hs]) (by cases op <;> simp [encInstr])

theorem exec_vbufWr_of_index_le {s : State} {index : Word16} (value : Word16) (hs : s.encSt = .idle)
    (hi : index.toNat ≤ 122) :
    exec (.vbufWr index value) s = .next ((s.vbufWrite index.toNat value).setEncErr .none) := by
  have hr : indexOk index = true := decide_eq_true (Nat.lt_succ_of_le hi)
  exact (if_pos hs).trans (congrArg _ (if_pos hr))

/-- `VBUF.WR` in `SEND` is held (R85). -/
theorem exec_vbufWr_of_send {s : State} (hs : s.encSt = .send) (index value : Word16) :
    exec (.vbufWr index value) s = .next s :=
  exec_of_not_ready (by simp [ready, hs]) nofun

theorem countOk_rh_eq_false {g : Word16} (h : g.toNat < 1 ∨ 125 < g.toNat) : countOk .rh g = false := by
  rw [← Bool.not_eq_true, countOk_rh]
  omega

theorem countOk_wm_eq_false {g : Word16} (h : g.toNat < 1 ∨ 123 < g.toNat) : countOk .wm g = false := by
  rw [← Bool.not_eq_true, countOk_wm]
  omega

/-- Settles O7: the count's range decides between `latchFrame` and the encoder's fault; the example is a
computation. -/
theorem encRhStartsFrame : Obligations.EncRhStartsFrame := by
  refine ⟨fun s slave firstReg count => ⟨fun hs hlo hhi => ?_, fun hs hc => ?_, fun hs => ?_⟩, fun vbuf => ?_⟩
  · exact exec_encInstr_of_countOk (op := .rh) nofun hs (countOk_rh.mpr ⟨hlo, hhi⟩) slave firstReg
  · exact ⟨_, exec_encInstr_of_badCount (op := .rh) hs (countOk_rh_eq_false hc) slave firstReg, rfl⟩
  · exact exec_encInstr_of_send hs .rh slave firstReg count
  · change frame .rh 1#8 0#16 10#16 (fun _ => 0#16) = _
    decide +kernel

/-- Settles O8: every operand is in range. -/
theorem encWsStartsFrame : Obligations.EncWsStartsFrame := by
  refine ⟨fun s slave reg value => ⟨fun hs => ?_, fun hs => ?_⟩, fun vbuf => ?_⟩
  · exact exec_encInstr_of_countOk (op := .ws) nofun hs rfl slave reg
  · exact exec_encInstr_of_send hs .ws slave reg value
  · change frame .ws 1#8 10#16 7#16 (fun _ => 0#16) = _
    decide +kernel

/-- Settles O9: as O7, with the length of the frame latched without loss. -/
theorem encWmStartsFrame : Obligations.EncWmStartsFrame := by
  refine ⟨fun s slave firstReg n => ⟨fun hs hlo hhi => ?_, fun hs hc => ?_, fun hs => ?_⟩, by decide +kernel⟩
  · have hc : countOk .wm n = true := countOk_wm.mpr ⟨hlo, hhi⟩
    exact ⟨_, exec_encInstr_of_countOk (op := .wm) nofun hs hc slave firstReg,
      latchFrame_txLen_toNat hc slave firstReg s, rfl⟩
  · exact ⟨_, exec_encInstr_of_badCount (op := .wm) hs (countOk_wm_eq_false hc) slave firstReg, rfl⟩
  · exact exec_encInstr_of_send hs .wm slave firstReg n

/-- Settles O10: what is latched in `CMD_ADDR` and `CMD_ARG` is in no byte of the frame. -/
theorem encIdStartsFrame : Obligations.EncIdStartsFrame := by
  refine ⟨fun s slave => ⟨fun hs => ⟨_, exec_encId_of_idle hs slave, rfl⟩, fun hs => ?_⟩, fun a g vbuf => ?_⟩
  · exact exec_encInstr_of_send hs .id slave 0#16 0#16
  · change frame .id 1#8 0#16 0#16 (fun _ => 0#16) = _
    decide +kernel

/-- Settles O12: the entry by read after write, and the error out of range as in O13. -/
theorem vbufWrWritesEntry : Obligations.VbufWrWritesEntry := by
  refine ⟨fun s index value => ⟨fun hs hi => ?_, fun hs hi => ?_, fun hs => exec_vbufWr_of_send hs index value⟩,
    by decide +kernel⟩
  · have hread (j : Nat) : ((s.vbufWrite index.toNat value).setEncErr .none).vbufRead j
        = if j = index.toNat then value else s.vbufRead j := s.vbufRead_vbufWrite index.toNat j value
    exact ⟨_, exec_vbufWr_of_index_le value hs hi, (hread _).trans (if_pos rfl),
      fun j hj => (hread j).trans (if_neg hj), rfl⟩
  · exact ⟨_, exec_vbufWr_badIndex value hs hi, rfl⟩

end Sys2Proof.Machine

/-! PROOFS. `ENC.EMIT` on a frame in flight (R86, R57): the byte it offers and sends is the byte of `Frame`. -/

namespace Sys2Proof.Machine

/-- The byte at index `i` after a body, from the CRC of the body bytes before it: the byte of the frame (R57, R86). -/
theorem getD_append_crc_take (l : List Byte) (i : Nat) :
    (l ++ [lo8 (crc16 (l.take i)), hi8 (crc16 (l.take i))]).getD i 0#8 = (l ++ crcField l).getD i 0#8 := by
  by_cases h : i < l.length
  · rw [List.getD_append _ _ _ _ h, List.getD_append _ _ _ _ h]
  · rw [List.take_of_length_le (Nat.not_lt.mp h)]
    rfl

/-- A byte found for the sequencer is on offer, with its tag (R10, R19). -/
theorem State.tx_of_emission {s : State} {e : Emission} (hs : s.encSt = .send) (he : s.emission = some e) :
    s.txValid = true ∧ s.txByte = some e.byte ∧ s.txLast = e.last := by
  have hv : s.txValid = true := decide_eq_true hs
  exact ⟨hv, by simp [State.txByte, hv, he], by simp [State.txLast, hv, he]⟩

/-- A request row whose step `ENC.EMIT` is not enabled changes nothing (R86). -/
theorem exec_reqInstr_of_not_enabled {s : State} (op : ReqOp) (h : s.encSt = .idle ∨ s.txReady = false) :
    exec (reqInstr op) s = .next s := by
  rw [exec_reqInstr, if_neg]
  rcases h with h | h <;> simp [emitReady, h]

/-- Settles O21: the running CRC of the invariant makes the byte on offer that of `Frame`, and what is sent is
`State.afterByte`. -/
theorem emitSendsFrameByte : Obligations.EmitSendsFrameByte := by
  refine ⟨?_, fun s op h => exec_reqInstr_of_not_enabled op h⟩
  intro s hinv hs i n f b
  have hf := (State.inv_iff.mp hinv).1.inFlight hs
  have hi : i < n := hf.idx
  have hlen : s.body.length = n - 2 := by have : _ = n := hf.body_length; omega
  have hn : s.txLen.toNat = s.body.length + 2 := hf.body_length.symm
  have hb : b = (s.body ++ [lo8 s.txCrc, hi8 s.txCrc]).getD i 0#8 := by
    rw [getD_append_pair _ _ _ (hn ▸ hi), hlen]
    rfl
  have hlast : decide (s.txIdx.toNat + 1 = s.txLen.toNat) = decide (i = n - 1) := decide_eq_decide.mpr (by omega)
  have hcrc : (if i < n - 2 then crc16Update s.txCrc (s.body.getD i 0#8) else s.txCrc)
      = if i < n - 2 then crc16Update s.txCrc b else s.txCrc :=
    ite_congr rfl (fun hin => congrArg _ (if_pos hin).symm) fun _ => rfl
  obtain ⟨hvalid, hbyte, htag⟩ := State.tx_of_emission hs (emission_eq hf.len hf.idx)
  refine ⟨(frame_length ..).trans hf.len.symm, hi, ?_, hvalid, hbyte.trans (congrArg _ hb.symm), htag.trans hlast,
    fun hr => ⟨_, exec_reqInstr_of_body hs hr rfl rfl hn (i := i) rfl (hn ▸ hi), ?_⟩⟩
  · rw [hb, hf.crc]
    exact getD_append_crc_take s.body i
  · rw [State.noteUnwritten_eq_withLog]
    simp only [State.afterByte, hlen, ← hb, hcrc, show n - 2 + 1 = n - 1 by omega]

end Sys2Proof.Machine

/-! PROOFS. The transmission of a whole frame (R87): the frame in flight along a run of any turns but `RESET`. -/

namespace Sys2Proof.Machine

/-! ### The schedule -/

/-- The level of `tx_ready` after a turn. -/
def Turn.readyAfter (level : Bool) : Turn → Bool
  | .setTxReady level' => level'
  | .host | .enc | .link | .withdraw | .raiseRst => level

/-- How many steps `ENC.EMIT` a turn is, at this level of `tx_ready`. -/
def Turn.emits (level : Bool) : Turn → Nat
  | .enc => if level then 1 else 0
  | .host | .link | .withdraw | .setTxReady _ | .raiseRst => 0

theorem emitTurns_cons (level : Bool) (u : Turn) (ts : List Turn) :
    emitTurns level (u :: ts) = u.emits level + emitTurns (u.readyAfter level) ts := by
  cases u <;> simp [emitTurns, Turn.emits, Turn.readyAfter]

theorem emitTurns_append (level : Bool) (us ts : List Turn) :
    emitTurns level (us ++ ts) = emitTurns level us + emitTurns (us.foldl Turn.readyAfter level) ts := by
  induction us generalizing level with
  | nil => simp [emitTurns]
  | cons u us ih => simp only [List.cons_append, List.foldl_cons, emitTurns_cons, ih, Nat.add_assoc]

/-! ### The bytes of a frame in `TXOUT` -/

theorem tagFrame_length (f : List Byte) : (tagFrame f).length = f.length := by simp [tagFrame]

theorem tagFrame_take_succ {f : List Byte} {i : Nat} (h : i < f.length) :
    (tagFrame f).take (i + 1) = (tagFrame f).take i ++ [⟨f.getD i 0#8, decide (i + 1 = f.length)⟩] := by
  rw [List.take_add_one]
  simp [tagFrame, List.getElem?_eq_getElem h]

/-! ### A frame in flight -/

/-- `m` bytes of the frame with body `l` have been sent, behind `out` in `TXOUT` (R87). After the last byte the encoder
is `IDLE`. -/
structure State.HasSent (l : List Byte) (out : List TxByte) (m : Nat) (s : State) : Prop where
  rst : s.rst = false
  encSt : s.encSt = if m < l.length + 2 then .send else .idle
  body : s.body = l
  len : s.txLen.toNat = l.length + 2
  idx : s.txIdx.toNat = m
  crc : s.txCrc = crc16 (l.take m)
  trace : s.txOut = out ++ (tagFrame (l ++ crcField l)).take m

section

variable {l : List Byte} {out : List TxByte} {m : Nat} {s : State}

theorem State.HasSent.sending (h : s.HasSent l out m) (hm : m < l.length + 2) : s.encSt = .send :=
  h.encSt.trans (if_pos hm)

theorem State.HasSent.congr {t : State} (h : s.HasSent l out m) (he : SameEncoder s t) (hep : t.epoch = s.epoch)
    (hr : t.rst = s.rst) : t.HasSent l out m := by
  obtain ⟨hst, hidx, hlen, hcrc, -, hop, hsl, ha, hg, hv, hout⟩ := he
  exact {
    rst := hr.trans h.rst
    encSt := hst.trans h.encSt
    body := (State.body_congr hop hsl ha hg hv hep).trans h.body
    len := by rw [hlen]; exact h.len
    idx := by rw [hidx]; exact h.idx
    crc := hcrc.trans h.crc
    trace := hout.trans h.trace }

/-- One step `ENC.EMIT` sends the next byte of the frame (R86, R87). -/
theorem State.HasSent.afterByte (h : s.HasSent l out m) (hm : m < l.length + 2) :
    (s.noteUnwritten.afterByte l m).HasSent l out (m + 1) := by
  rw [s.noteUnwritten_eq_withLog]
  have hlen : (l ++ crcField l).length = l.length + 2 := by simp [crcField]
  exact {
    rst := h.rst
    encSt := by
      by_cases hlast : m = l.length + 1
      · simp [State.afterByte, hlast]
      · simp [State.afterByte, hlast, show m < l.length + 1 by omega]
    body := h.body
    len := h.len
    idx := by
      have := h.len
      have := s.txLen.isLt
      simp only [State.afterByte, BitVec.toNat_ofNat]
      omega
    crc := by
      simp only [State.afterByte, h.crc]
      split
      case isTrue hbody =>
        refine crc16_take_succ l m _ ?_
        simp [List.getElem?_eq_getElem hbody]
      case isFalse hbody => rw [List.take_of_length_le (by omega), List.take_of_length_le (by omega)]
    trace := by
      rw [tagFrame_take_succ (hlen ▸ hm), ← List.append_assoc, ← h.trace, hlen, ← getD_append_crc_take, ← h.crc]
      simp [State.afterByte] }

/-- In `SEND` the host's turn moves no register of the encoder: the encoder's commands are held (R80, R85). -/
theorem exec_decodeCommand_of_send (hs : s.encSt = .send) (w : CmdWord) :
    ∃ t, exec (decodeCommand w) s = .next t ∧ SameEncoder s t := by
  have keeps {i : Instr} (hi : encoderInstr i = false) (hx : ∃ t, exec i s = .next t) :
      ∃ t, exec i s = .next t ∧ SameEncoder s t := hx.imp fun _ ht => ⟨ht, (exec_effect ht).sameEncoder hi⟩
  obtain ⟨op, sl, a, g, h⟩ | ⟨es, ef, h⟩ | h | ⟨k, v, h⟩ | h := decodeCommand_cases w <;> rw [h]
  · exact ⟨s, exec_encInstr_of_send hs op sl a g, by simp [SameEncoder]⟩
  · exact keeps rfl ⟨_, rfl⟩
  · exact keeps rfl (answers_ite (fun _ => ⟨_, rfl⟩) ⟨_, rfl⟩)
  · exact ⟨s, exec_vbufWr_of_send hs k v, by simp [SameEncoder]⟩
  · exact keeps rfl ⟨_, rfl⟩

/-- A turn of the encoder sends one byte, if `tx_ready` lets it (R86). -/
theorem State.HasSent.step_enc {ts : List Turn} (h : s.HasSent l out m) (hm : m < l.length + 2)
    (hn : s.turns = .enc :: ts) : ∃ t, step s = .next t ∧ t.HasSent l out (m + Turn.enc.emits s.txReady)
      ∧ t.turns = ts ∧ t.txReady = s.txReady := by
  have h' : State.HasSent l out m { s with turns := ts } := h.congr (by simp [SameEncoder]) rfl rfl
  rw [step_encoder h.rst hn]
  by_cases hr : s.txReady = true
  · have hx := exec_reqInstr_of_body (s := { s with turns := ts }) (h.sending hm) hr rfl h'.body h.len h.idx hm
    obtain ⟨-, hready, -, -, -, hturns⟩ := (exec_effect hx).sameInputs
    exact ⟨_, hx, by simpa only [Turn.emits, if_pos hr] using h'.afterByte hm, hturns, hready⟩
  · refine ⟨_, exec_reqInstr_of_not_enabled _ (.inr (Bool.eq_false_iff.mpr hr)), ?_, rfl, rfl⟩
    simpa only [Turn.emits, if_neg hr, Nat.add_zero] using h'

/-- A turn of the host leaves the frame in flight as it is. -/
theorem State.HasSent.step_host {ts : List Turn} (h : s.HasSent l out m) (hm : m < l.length + 2)
    (hn : s.turns = .host :: ts) :
    ∃ t, step s = .next t ∧ t.HasSent l out m ∧ t.turns = ts ∧ t.txReady = s.txReady := by
  cases hq : s.cmdQ with
  | nil => exact ⟨_, step_noCommand h.rst hn hq, h.congr (by simp [SameEncoder]) rfl rfl, rfl, rfl⟩
  | cons w ws =>
    rw [step_decodeCommand h.rst hn hq]
    obtain ⟨t, hx, henc⟩ := exec_decodeCommand_of_send (s := { s with
      turns := ts, cmdQ := if ready (decodeCommand w) s then ws else s.cmdQ
      portHeld := !ready (decodeCommand w) s }) (h.sending hm) w
    obtain ⟨hrst, hready, -, -, -, hturns⟩ := (exec_effect hx).sameInputs
    exact ⟨t, hx, h.congr henc (exec_effect hx).epoch_eq hrst, hturns, hready⟩

/-- What a turn does to the frame in flight: a step `ENC.EMIT` sends a byte, and every other event but `RESET` leaves
the encoder as it is (R87). -/
theorem State.HasSent.takeTurn {u : Turn} {ts : List Turn} (h : s.HasSent l out m) (hm : m < l.length + 2)
    (hn : s.turns = u :: ts) (hu : u ≠ .raiseRst) :
    ∃ t, step s = .next t ∧ t.HasSent l out (m + u.emits s.txReady) ∧ t.turns = ts
      ∧ t.txReady = u.readyAfter s.txReady := by
  cases u with
  | host => exact h.step_host hm hn
  | enc => exact h.step_enc hm hn
  | link =>
    refine ⟨_, step_link h.rst hn, ?_⟩
    rw [State.receive_eq]
    exact ⟨h.congr (by simp [SameEncoder, State.withLinkOf]) rfl rfl, rfl, rfl⟩
  | withdraw => exact ⟨_, step_withdraw h.rst hn, h.congr (by simp [SameEncoder]) rfl rfl, rfl, rfl⟩
  | setTxReady level => exact ⟨_, step_turn h.rst hn, h.congr (by simp [SameEncoder]) rfl rfl, rfl, rfl⟩
  | raiseRst => exact absurd rfl hu

/-- A run of turns that leaves the frame unfinished sends as many of its bytes as the schedule has steps `ENC.EMIT`. -/
theorem State.HasSent.run {mid ts : List Turn} (h : s.HasSent l out m) (hn : s.turns = mid ++ ts)
    (hu : .raiseRst ∉ mid) (hm : m + emitTurns s.txReady mid < l.length + 2) :
    ∃ t, core.run mid.length s = .next t ∧ t.HasSent l out (m + emitTurns s.txReady mid) ∧ t.turns = ts
      ∧ t.txReady = mid.foldl Turn.readyAfter s.txReady := by
  induction mid generalizing s m with
  | nil => exact ⟨s, rfl, h, hn, rfl⟩
  | cons u mid ih =>
    obtain ⟨hne, hmid⟩ := List.ne_and_not_mem_of_not_mem_cons hu
    rw [emitTurns_cons, ← Nat.add_assoc] at hm ⊢
    obtain ⟨t, hstep, ht, hturns, hready⟩ := h.takeTurn (by omega) hn hne.symm
    rw [List.length_cons, run_next _ hstep, List.foldl_cons, ← hready]
    exact ih ht hturns hmid (hready ▸ hm)

/-! ### From the command to the last byte -/

theorem State.latchFrame_hasSent {op : ReqOp} {arg : Word16} (hc : countOk op arg = true) (hr : s.rst = false)
    (slave : Byte) (addr : Word16) :
    (s.latchFrame op slave addr arg).HasSent (frameBody op slave addr arg s.vbufRead) s.txOut 0 where
  rst := hr
  encSt := (if_pos (Nat.succ_pos _)).symm
  body := rfl
  len := by rw [frameBody_length, latchFrame_txLen_toNat hc]
  idx := rfl
  crc := rfl
  trace := by simp

/-- An encode command in range puts its own frame in flight, whatever the environment presents from then on: what
`ENC.ID` leaves in `CMD_ADDR` and `CMD_ARG` is in no byte of its frame (R80, R84). -/
theorem exec_encInstr_hasSent {op : ReqOp} {arg : Word16} (hs : s.encSt = .idle) (hc : countOk op arg = true)
    (slave : Byte) (addr : Word16) :
    ∃ s1, exec (encInstr op slave addr arg) s = .next s1 ∧
      ∀ (ready held : Bool) (words : List CmdWord) (bytes : List Byte) (ts : List Turn),
        State.HasSent (frameBody op slave addr arg s.vbufRead) s.txOut 0 { s1 with
          rst := false, txReady := ready, cmdQ := words, portHeld := held, rxQ := bytes, turns := ts } := by
  by_cases hop : op = .id
  · subst hop
    exact ⟨_, exec_encId_of_idle hs slave, fun ready held words bytes ts =>
      State.latchFrame_hasSent (op := .id) (s := { s with
        rst := false, txReady := ready, cmdQ := words, portHeld := held, rxQ := bytes, turns := ts
        freeCount := s.freeCount + 1 }) (arg := Config.idLatchArg s.freeCount) rfl rfl slave (Config.idLatchAddr _)⟩
  · exact ⟨_, exec_encInstr_of_countOk hop hs hc slave addr, fun ready held words bytes ts =>
      State.latchFrame_hasSent (s := { s with
        rst := false, txReady := ready, cmdQ := words, portHeld := held, rxQ := bytes, turns := ts }) hc rfl slave
        addr⟩

end

/-- Settles O20: the run between the command and the last byte by `State.HasSent.run`, the last byte by one more turn
of the encoder. -/
theorem wholeFrameSent : Obligations.WholeFrameSent := by
  intro s op slave addr arg hs
  refine ⟨fun hc => ?_, fun hc => ⟨_, exec_encInstr_of_badCount hs hc slave addr, rfl, hs⟩⟩
  obtain ⟨s1, hexec, hstart⟩ := exec_encInstr_hasSent hs hc slave addr
  refine ⟨s1, hexec, fun ready held words bytes mid ts hu hlt => ?_⟩
  have hlen := frameBody_length op slave addr arg s.vbufRead
  have hrun (rest : List Turn) := (hstart ready held words bytes (mid ++ rest)).run rfl hu
    (by rw [hlen, Nat.zero_add]; exact hlt)
  simp only [Nat.zero_add] at hrun
  refine ⟨?_, fun hlast => ?_⟩
  · obtain ⟨u, hu, hsent, -, -⟩ := hrun ts
    exact ⟨u, hu, hsent.sending (hlen ▸ hlt), hsent.idx, hsent.trace, fun _ => hsent.crc⟩
  · obtain ⟨u, hu, hsent, hturns, hready⟩ := hrun (.enc :: ts)
    obtain ⟨t, hstep, ht, hts, -⟩ := hsent.step_enc (hlen ▸ hlt) hturns
    have hfull : emitTurns ready mid + Turn.enc.emits u.txReady = frameLen op arg := by
      rw [← hlast, emitTurns_append, emitTurns_cons, hready]
      rfl
    rw [hfull, ← hlen] at ht
    refine ⟨t, (run_append_step _ _ u hu).trans hstep, ht.encSt.trans (if_neg (Nat.lt_irrefl _)), hts,
      ht.trace.trans ?_⟩
    rw [List.take_of_length_le (by simp [tagFrame_length, crcField])]
    rfl

end Sys2Proof.Machine

/-! PROOFS. The stages of `Classify` (R105 to R109), each with the stages before it passed. -/

namespace Sys2Proof.Machine

/-- Stage 1: an overflow or a sequence too short for a CRC (R105). -/
theorem classify_of_short {r : List Byte} {ovf : Bool} (h : ovf = true ∨ r.length < 4) (es ef : Byte) :
    classify r ovf es ef = (.malformed, 0#8) := if_pos h

/-- Stage 3: a good frame from another slave (R107). -/
theorem classify_of_slave_ne {r : List Byte} {es : Byte} (hn : 4 ≤ r.length) (hc : crcGood r = true)
    (hs : rxByte r 0 ≠ es) (ef : Byte) : classify r false es ef = (.slaveMismatch, 0#8) := by
  have hmin : ¬ (false = true ∨ r.length < Config.minFrame) := by simp [Config.minFrame, hn]
  rw [classify, if_neg hmin, if_neg (by simp [hc]), if_pos hs]

/-- Stage 5: a function byte that is no exception and not the expected one (R109). -/
theorem classify_of_func_ne {r : List Byte} {es ef : Byte} (hn : 4 ≤ r.length) (hc : crcGood r = true)
    (hs : rxByte r 0 = es) (h7 : (rxByte r 1).getLsbD 7 = false) (hf : rxByte r 1 ≠ ef) :
    classify r false es ef = (.malformed, 0#8) := by
  have hmin : ¬ (false = true ∨ r.length < Config.minFrame) := by simp [Config.minFrame, hn]
  rw [classify, if_neg hmin, if_neg (by simp [hc]), if_neg (not_not.mpr hs), if_neg (Bool.eq_false_iff.mp h7),
    if_pos hf]

/-- Settles O32: one lemma a stage; an unsupported `EXP_FUNC` that the frame has is a function byte of no format. -/
theorem classifyStages : Obligations.ClassifyStages := by
  intro r ovf es ef
  refine ⟨fun h => classify_of_short h es ef, fun hn => ⟨fun hbad => ?_, fun hcrc => ?_⟩⟩
  · exact classify_of_crc_bad hn (Bool.eq_false_iff.mpr fun hc => hbad ((crcGood_iff r).mp hc)) es ef
  · have hc := (crcGood_iff r).mpr hcrc
    refine ⟨fun hs => classify_of_slave_ne hn hc hs ef, fun hs h7 =>
      ⟨classify_of_func_ne hn hc hs h7, fun hf hno => ?_⟩⟩
    exact classify_of_no_format hn hc hs h7 (forall_ne_func_iff.mpr (hf ▸ hno))

end Sys2Proof.Machine

/-! PROOFS. The parser's commands and the link's bytes (R100 to R103). -/

namespace Sys2Proof.Machine

/-- Settles O24: `DEC.ARM` has no guard, and its writes are those of `State.arm`. -/
theorem decArmStartsReception : Obligations.DecArmStartsReception := fun _ _ _ => rfl

theorem exec_decEnd_of_recv {s : State} (h : s.decSt = .recv) :
    exec .decEnd s = .next (s.deliver (classify s.rxFrame s.rxOvf s.expSlave s.expFunc)) := if_pos h

/-- Settles O26: in `RECV` the verdict of `Classify` is delivered; outside it the word at the port is held. -/
theorem decEndClassifies : Obligations.DecEndClassifies := by
  refine ⟨fun s hd => ?_, fun s w ws ts hrst hn hq hw hd => ?_⟩
  · refine ⟨_, exec_decEnd_of_recv hd, ?_⟩
    rw [State.deliver_eq _ s (classify_exc _ _ _ _)]
    refine ⟨rfl, fun hl => ?_, rfl⟩
    have hshort : s.rxFrame.length < 4 := by simp [hl]
    exact congrArg Prod.fst (classify_of_short (.inr hshort) s.expSlave s.expFunc)
  · have hw : decodeCommand w = .decEnd := Except.ok.inj hw
    have hr : ready .decEnd s = false := decide_eq_false hd
    rw [step_decodeCommand hrst hn hq, hw, hr]
    exact ⟨_, exec_decEnd_of_not_recv hd, rfl⟩

theorem decByte_of_recv {s : State} (h : s.decSt = .recv) (b : Byte) : decByte b s = s.rxStore b := if_pos h

theorem decByte_of_not_recv {s : State} (h : s.decSt ≠ .recv) (b : Byte) : decByte b s = s := if_neg h

/-- A byte that finds room is written at `RX_LEN`, which it advances (R101). -/
theorem State.rxStore_of_lt {s : State} (h : s.rxLen.val < 256) (b : Byte) :
    s.rxStore b = { s with
      rxbuf := Memory.write s.rxbuf s.rxLen.val b, rxLen := ⟨s.rxLen.val + 1, by omega⟩ } := dif_pos h

/-- Settles O25: the byte is stored, dropped on a full buffer, or dropped outside `RECV`. -/
theorem byteStoredOrDropped : Obligations.ByteStoredOrDropped := by
  intro s b bs ts hrst hn hq
  rw [step_byte hrst hn hq]
  refine ⟨fun hd hl => ⟨_, rfl, ?_⟩, fun hd hl => congrArg _ (decByte_of_full b hd hl),
    fun hd => congrArg _ (decByte_of_not_recv (by exact hd) b)⟩
  have hread (j : Nat) : (State.rxStore b { s with turns := ts, rxQ := bs }).rxRead j
      = if j = s.rxLen.val then b else s.rxRead j := State.rxRead_rxStore { s with turns := ts, rxQ := bs } b j hl
  rw [decByte_of_recv (by exact hd)]
  refine ⟨(hread _).trans (if_pos rfl), fun j hj => (hread j).trans (if_neg hj), ?_⟩
  rw [State.rxStore_of_lt (by exact hl)]
  exact ⟨rfl, rfl⟩

end Sys2Proof.Machine

/-! PROOFS. The response rows (R108, R110 to R113): the verdict of each layout, and the views of a frame found `Ok`. -/

namespace Sys2Proof.Machine

/-- A frame of the expected function selects that function's row (R104). -/
theorem parserSelect_of_func {s : State} {op : ReqOp} (h : HoldsFrame s op.func) (he : s.expFunc = op.func) :
    parserSelect s = some (rspInstr op) :=
  parserSelect_of_holdsFrame h (decode_response_eq_ok.mpr rfl) (.inr he.symm)

/-- What a row leaves whose layout is the condition `c`: `Ok` where `c` holds and `Malformed` elsewhere, the buffer and
the rest of the state as they were (R102, R133). -/
theorem exec_of_layout {s : State} {i : Instr} {c : Prop} [Decidable c]
    (h : exec i s = .next (s.deliver (if c then (.ok, 0#8) else (.malformed, 0#8)))) :
    ∃ st log, exec i s = .next { s with resStatus := st, resExc := 0#8, decSt := .done, faultLog := log }
      ∧ (st = .ok ↔ c) ∧ (st ≠ .ok → st = .malformed) := by
  by_cases hc : c
  · rw [if_pos hc, deliver_plain (.inl rfl)] at h
    exact ⟨_, _, h, iff_of_true rfl hc, fun hne => absurd rfl hne⟩
  · rw [if_neg hc, deliver_plain (.inr rfl)] at h
    exact ⟨_, _, h, iff_of_false nofun hc, fun _ => rfl⟩

/-- Settles O27: the condition of `verdictRh`, and the registers of a frame that fits it. -/
theorem rspRhVerdict : Obligations.RspRhVerdict := by
  refine ⟨fun s h he => ?_, by decide +kernel, by decide +kernel, by decide +kernel⟩
  have hx : exec .rspRh s = .next (s.deliver (verdictRh s.rxFrame)) := if_pos (parserSelect_of_func (op := .rh) h he)
  obtain ⟨st, log, hexec, hok, hbad⟩ := exec_of_layout hx
  rw [State.rxFrame_length, odd_bit] at hok
  refine ⟨_, hexec, hok.trans ⟨And.right, fun hc => ⟨by omega, hc⟩⟩, fun hst => ?_, hbad, rfl⟩
  obtain ⟨-, heven, -, -, hlen⟩ := hok.mp hst
  have hbyte := rxByte_rxFrame s
  have hview := fun i => ((viewsShowResponse { s with
    resStatus := st, resExc := 0#8, decSt := .done, faultLog := log } i).1 rfl hst).1 he
  have hcount := (hview 0).1
  change _ = (s.rxRead 2).toNat / 2 at hcount
  rw [hbyte 2 (by omega)] at heven hlen ⊢
  refine ⟨by omega, fun i hi => ?_⟩
  rw [hcount] at hi
  rw [hbyte _ (by omega), hbyte _ (by omega)]
  exact (hview i).2.1 hi

/-- Settles O28: the condition of `verdictWs` and of `verdictWm`, and the pair of a frame of eight bytes. -/
theorem rspWriteVerdict : Obligations.RspWriteVerdict := by
  refine ⟨fun s i fn hi h he => ?_, by decide +kernel, by decide +kernel⟩
  have hx : exec i s = .next (s.deliver (if s.rxFrame.length = 8 then (.ok, 0#8) else (.malformed, 0#8))) := by
    obtain ⟨rfl, rfl⟩ | ⟨rfl, rfl⟩ := hi
    · exact if_pos (parserSelect_of_func (op := .ws) h he)
    · exact if_pos (parserSelect_of_func (op := .wm) h he)
  obtain ⟨st, log, hexec, hok, hbad⟩ := exec_of_layout hx
  rw [State.rxFrame_length] at hok
  refine ⟨_, hexec, hok, fun hst => ?_, hbad, rfl⟩
  have hlen := hok.mp hst
  have hwrite : s.expFunc ∈ [0x06#8, 0x10#8] := by
    obtain ⟨-, rfl⟩ | ⟨-, rfl⟩ := hi <;> simp [he]
  have hbyte := rxByte_rxFrame s
  rw [hbyte 2 (by omega), hbyte 3 (by omega), hbyte 4 (by omega), hbyte 5 (by omega)]
  exact ((viewsShowResponse _ 0).1 rfl hst).2.1 hwrite

/-- Settles O29: the condition of `verdictId`, and the data bytes of a frame that fits it. -/
theorem rspIdVerdict : Obligations.RspIdVerdict := by
  refine ⟨fun s h he => ?_, by decide +kernel⟩
  have hx : exec .rspId s = .next (s.deliver (verdictId s.rxFrame)) := if_pos (parserSelect_of_func (op := .id) h he)
  obtain ⟨st, log, hexec, hok, hbad⟩ := exec_of_layout hx
  rw [State.rxFrame_length] at hok
  refine ⟨_, hexec, hok.trans ⟨And.right, fun hc => ⟨by omega, hc⟩⟩, fun hst => ?_, hbad, rfl⟩
  obtain ⟨-, hlen⟩ := hok.mp hst
  have hbyte := rxByte_rxFrame s
  have hview := fun i => ((viewsShowResponse { s with
    resStatus := st, resExc := 0#8, decSt := .done, faultLog := log } i).1 rfl hst).2.2 he
  have hcount := (hview 0).1
  change _ = s.rxRead 2 at hcount
  rw [hbyte 2 (by omega)] at hlen ⊢
  refine ⟨hcount, fun i hi => ?_⟩
  rw [hcount] at hi
  rw [hbyte _ (by omega)]
  exact (hview i).2.1 hi

theorem verdictExc_exc (r : List Byte) : (verdictExc r).1 ≠ .exceptionResponse → (verdictExc r).2 = 0#8 := by
  unfold verdictExc
  split
  · exact fun h => absurd rfl h
  · exact fun _ => rfl

/-- Settles O30: bit 7 alone selects the row, and the length decides its verdict. -/
theorem rspExcVerdict : Obligations.RspExcVerdict := by
  refine ⟨fun s fn h7 h => ?_, by decide +kernel⟩
  have hsel : parserSelect s = some (.rspExc fn) := parserSelect_of_holdsFrame h (if_pos h7) (.inl h7)
  have hx : exec (.rspExc fn) s = .next (s.deliver (verdictExc s.rxFrame)) := if_pos hsel
  rw [State.deliver_eq _ s (verdictExc_exc _)] at hx
  refine ⟨_, hx, fun hl => ?_, fun hl => ?_, rfl⟩
  · simp [verdictExc, hl]
  · simp [verdictExc, hl]

end Sys2Proof.Machine

/-! PROOFS. The steps that leave the parser as it is (R41, R114), and what they keep of its views. -/

namespace Sys2Proof.Machine

/-- An instruction that is not `DEC.ARM` moves the parser in `RECV` only, and then only one of the parser's. -/
theorem ExecEffect.sameParser_of_not_arm {i : Instr} {s t : State} (h : ExecEffect i s t)
    (harm : ∀ es ef, i ≠ .decArm es ef) (hrecv : s.decSt = .recv → parserInstr i = false) : SameParser s t := by
  by_cases hi : parserInstr i = false
  · exact h.sameParser hi
  · cases h with
    | armed es ef => exact absurd rfl (harm es ef)
    | ended _ _ hr => exact absurd (hrecv hr) hi
    | held | heldEnd | started | badCount | vbufWritten | badIndex | reserved | emitted => simp [SameParser]

/-- A step that is no `RESET`, runs no command that moves the parser and delivers no byte in `RECV` leaves it. -/
theorem step_sameParser {s t : State} (hrst : s.rst = false) (hstep : step s = .next t)
    (hlink : s.decSt = .recv → ∀ ts, s.turns ≠ .link :: ts)
    (hhost : ∀ i ts, s.turns = .host :: ts → portInstr s = some i →
      (∀ es ef, i ≠ .decArm es ef) ∧ (s.decSt = .recv → parserInstr i = false)) :
    SameParser s t ∧ t.epoch = s.epoch := by
  cases step_effect hstep with
  | reset h => rw [hrst] at h; cases h
  | command ts w ws i _ hn hq hw ht =>
    obtain ⟨harm, hrecv⟩ := hhost i ts hn (by rw [portInstr_cons hq, hw])
    exact ⟨ht.sameParser_of_not_arm harm hrecv, ht.epoch_eq⟩
  | encoder _ _ _ ht =>
    obtain rfl | ⟨e, -, -, -, rfl⟩ := ht <;> simp [SameParser]
  | byte ts b bs _ hn _ ht =>
    subst ht
    rw [decByte_of_not_recv (by exact fun hd => hlink hd ts hn)]
    simp [SameParser]
  | idle _ _ ht | noCommand _ _ _ _ ht | noByte _ _ _ _ ht | withdrawn _ _ _ ht | txReady _ _ _ _ ht
  | raised _ _ _ ht => subst ht; simp [SameParser]

/-- The views are functions of the parser's registers and of the power-up of `RXBUF` (R22). -/
theorem views_congr {s t : State} (h : SameParser s t) (he : t.epoch = s.epoch) :
    t.resNwords = s.resNwords ∧ t.resWord = s.resWord ∧ t.resAddr = s.resAddr ∧ t.resArg = s.resArg
      ∧ t.resNbytes = s.resNbytes ∧ t.resByte = s.resByte := by
  obtain ⟨hst, -, hef, hb, -, -, hres, -⟩ := h
  have hr : t.rxRead = s.rxRead := by
    funext i
    simp only [State.rxRead, hb, he]
  have hon : t.viewsOn = s.viewsOn := by simp only [State.viewsOn, hst, hres]
  have hn : t.resNwords = s.resNwords := by simp only [State.resNwords, hon, hef, hr]
  have hm : t.resNbytes = s.resNbytes := by simp only [State.resNbytes, hon, hef, hr]
  refine ⟨hn, ?_, ?_, ?_, hm, ?_⟩
  · funext i; simp only [State.resWord, hn, hr]
  · simp only [State.resAddr, hon, hef, hr]
  · simp only [State.resArg, hon, hef, hr]
  · funext i; simp only [State.resByte, hm, hr]

/-- Settles O37: in `DONE` no instruction but `DEC.ARM` moves the parser, and bytes are dropped. -/
theorem resultStable : Obligations.ResultStable := by
  intro s t hd hrst hstep harm
  have hdone : s.decSt ≠ .recv := by rw [hd]; nofun
  obtain ⟨hp, he⟩ := step_sameParser hrst hstep (fun hr => absurd hr hdone) fun i ts hn hi =>
    ⟨fun es ef hi' => harm es ef ts hn (hi' ▸ hi), fun hr => absurd hr hdone⟩
  obtain ⟨hn, hword, haddr, harg, hm, hbyte⟩ := views_congr hp he
  exact ⟨hp, fun i => ⟨congrFun hword i, congrFun hbyte i, haddr, harg, hn, hm⟩⟩

end Sys2Proof.Machine

/-! PROOFS. The reception of a whole frame (R115, R116): the buffer along a run of the link's turns, other events
between them. -/

namespace Sys2Proof.Machine

/-! ### The bytes of a frame in `RXBUF` -/

/-- Of the bytes `got` delivered since `DEC.ARM` the first 256 are in the buffer, and one more has set `RX_OVF`
(R100, R101). -/
structure State.HasReceived (got : List Byte) (s : State) : Prop where
  frame : s.rxFrame = got.take 256
  ovf : s.rxOvf = decide (256 < got.length)

/-- `RX_LEN` counts the bytes received, up to 256 (R20, R101). -/
theorem State.HasReceived.rxLen_eq {got : List Byte} {s : State} (h : s.HasReceived got) :
    s.rxLen.val = min 256 got.length := by rw [← State.rxFrame_length, h.frame, List.length_take]

/-- A byte delivered in `RECV` is one more received, stored or dropped (R101). -/
theorem State.HasReceived.decByte {got : List Byte} {s : State} (h : s.HasReceived got) (hd : s.decSt = .recv)
    (b : Byte) : (decByte b s).HasReceived (got ++ [b]) := by
  have hlen := h.rxLen_eq
  by_cases hroom : s.rxLen.val < 256
  · rw [decByte_of_recv hd]
    constructor
    · rw [s.rxFrame_rxStore b hroom, h.frame, List.take_of_length_le (by omega),
        List.take_of_length_le (by simp; omega)]
    · rw [State.rxStore_of_lt hroom, List.length_append, List.length_singleton]
      exact h.ovf.trans (decide_eq_decide.mpr (by omega))
  · rw [decByte_of_full b hd (by omega)]
    constructor
    · rw [List.take_append_of_le_length (by omega)]
      exact h.frame
    · exact (decide_eq_true (by simp; omega)).symm

/-- A reception armed for `es` and `ef` is under way: of `bytes` the link has still to deliver those of `rxQ`. -/
structure State.Receiving (es ef : Byte) (bytes : List Byte) (s : State) : Prop where
  rst : s.rst = false
  decSt : s.decSt = .recv
  expSlave : s.expSlave = es
  expFunc : s.expFunc = ef
  received : ∃ got, bytes = got ++ s.rxQ ∧ s.HasReceived got

section

variable {es ef : Byte} {bytes : List Byte} {s : State}

theorem State.Receiving.congr {t : State} (h : s.Receiving es ef bytes) (hp : SameParser s t)
    (he : t.epoch = s.epoch) (hr : t.rst = s.rst) (hq : t.rxQ = s.rxQ) : t.Receiving es ef bytes := by
  obtain ⟨hst, hes, hef, hb, hl, ho, -, -⟩ := hp
  exact {
    rst := hr.trans h.rst
    decSt := hst.trans h.decSt
    expSlave := hes.trans h.expSlave
    expFunc := hef.trans h.expFunc
    received := by
      obtain ⟨got, hbytes, hframe, hovf⟩ := h.received
      exact ⟨got, by rw [hq, hbytes], (State.rxFrame_congr hb hl he).trans hframe, ho.trans hovf⟩ }

/-- `DEC.ARM` begins a reception of what the link has still to deliver (R100). -/
theorem State.arm_receiving (hr : s.rst = false) (es ef : Byte) : (s.arm es ef).Receiving es ef s.rxQ where
  rst := hr
  decSt := rfl
  expSlave := rfl
  expFunc := rfl
  received := ⟨[], rfl, ⟨rfl, rfl⟩⟩

theorem decByte_expected (b : Byte) (s : State) :
    (decByte b s).decSt = s.decSt ∧ (decByte b s).expSlave = s.expSlave ∧ (decByte b s).expFunc = s.expFunc := by
  unfold decByte
  split <;> simp

/-- A byte of the link goes on with the reception (R101). -/
theorem State.Receiving.receive (h : s.Receiving es ef bytes) : s.receive.Receiving es ef bytes := by
  cases hq : s.rxQ with
  | nil => rwa [State.receive_nil hq]
  | cons b bs =>
    obtain ⟨got, hbytes, hgot⟩ := h.received
    obtain ⟨hst, hes, hef⟩ := decByte_expected b { s with rxQ := bs }
    obtain ⟨hr, -, -, -, hrxq, -⟩ := decByte_sameInputs b { s with rxQ := bs }
    have hgot' : State.HasReceived got { s with rxQ := bs } := ⟨hgot.frame, hgot.ovf⟩
    rw [State.receive_cons hq]
    exact {
      rst := hr.trans h.rst
      decSt := hst.trans h.decSt
      expSlave := hes.trans h.expSlave
      expFunc := hef.trans h.expFunc
      received := ⟨got ++ [b], by rw [hbytes, hq, hrxq, List.append_cons], hgot'.decByte h.decSt b⟩ }

theorem State.receive_rxQ (s : State) : s.receive.rxQ = s.rxQ.tail := by
  cases hq : s.rxQ with
  | nil => rw [State.receive_nil hq, hq]; rfl
  | cons b bs =>
    obtain ⟨-, -, -, -, hrxq, -⟩ := decByte_sameInputs b { s with rxQ := bs }
    rw [State.receive_cons hq]
    exact hrxq

/-- The buffer when the link has delivered everything (R101). -/
theorem State.Receiving.hasReceived (h : s.Receiving es ef bytes) (hq : s.rxQ = []) :
    s.HasReceived bytes := by
  obtain ⟨got, hbytes, hgot⟩ := h.received
  rw [hq, List.append_nil] at hbytes
  exact hbytes ▸ hgot

/-! ### The turns of a reception -/

/-- A turn of the link consumes its next byte, if it has one, and moves neither the port nor the rest of the
schedule (R10). -/
theorem State.Receiving.step_link {ts : List Turn} (h : s.Receiving es ef bytes) (hn : s.turns = .link :: ts) :
    ∃ t, step s = .next t ∧ t.Receiving es ef bytes ∧ t.turns = ts ∧ t.rxQ = s.rxQ.tail ∧ t.cmdQ = s.cmdQ := by
  have h' : State.Receiving es ef bytes { s with turns := ts } := h.congr (by simp [SameParser]) rfl rfl rfl
  have hturns : (State.receive { s with turns := ts }).turns = ts := by rw [State.receive_eq]; rfl
  have hcmdq : (State.receive { s with turns := ts }).cmdQ = s.cmdQ := by rw [State.receive_eq]; rfl
  exact ⟨_, Machine.step_link h.rst hn, h'.receive, hturns, State.receive_rxQ _, hcmdq⟩

/-- With nothing but turns of the link before `ts`, as many as there are bytes, the link delivers them all. -/
theorem State.Receiving.run_links {n : Nat} {ts : List Turn} (h : s.Receiving es ef bytes) (hl : s.rxQ.length = n)
    (hn : s.turns = List.replicate n .link ++ ts) :
    ∃ t : State, core.run n s = .next t ∧ t.Receiving es ef bytes ∧ t.turns = ts ∧ t.rxQ = [] ∧ t.cmdQ = s.cmdQ := by
  induction n generalizing s with
  | zero => exact ⟨s, rfl, h, hn, List.eq_nil_of_length_eq_zero hl, rfl⟩
  | succ n ih =>
    obtain ⟨t, hstep, ht, hturns, hrxq, hcmdq⟩ := h.step_link hn
    rw [run_next n hstep, ← hcmdq]
    exact ih ht (by rw [hrxq, List.length_tail, hl, Nat.add_sub_cancel]) hturns

/-- A command word that is not one of the parser's. -/
def NotParserWord (w : CmdWord) : Prop := parserInstr (decodeCommand w) = false

theorem notParserWord_iff {w : CmdWord} :
    NotParserWord w ↔ decode (.command w) ≠ .ok .decEnd ∧ ∀ a b, decode (.command w) ≠ .ok (.decArm a b) := by
  have hdec (i : Instr) : decode (.command w) ≠ .ok i ↔ decodeCommand w ≠ i := not_congr ⟨Except.ok.inj, congrArg _⟩
  simp only [hdec, NotParserWord]
  obtain ⟨op, sl, a, g, h⟩ | ⟨es, ef, h⟩ | h | ⟨k, v, h⟩ | h := decodeCommand_cases w <;> rw [h]
  · cases op <;> simp [parserInstr, encInstr]
  all_goals simp [parserInstr]

/-- The host's turn on such a word runs no instruction of the parser. -/
theorem NotParserWord.parserInstr_commandInstr {w : CmdWord} (h : NotParserWord w) (s : State) :
    parserInstr (commandInstr w s) = false := by
  obtain ⟨hd, -⟩ | ⟨-, hc⟩ := commandInstr_eq w s
  · rw [NotParserWord, hd] at h; cases h
  · rw [hc]; exact h

/-- What a turn that is neither the link's nor `RESET` does to what the environment presents: the words at the port are
those before or what is left of them, the bytes are as they were (R10). -/
theorem step_inputs {t : State} {u : Turn} {ts : List Turn} (hrst : s.rst = false) (hn : s.turns = u :: ts)
    (hu : u ≠ .raiseRst) (hl : u ≠ .link) (hstep : step s = .next t) :
    t.rst = s.rst ∧ t.turns = ts ∧ t.rxQ = s.rxQ ∧ t.cmdQ <:+ s.cmdQ := by
  cases step_effect hstep with
  | reset h => rw [hrst] at h; cases h
  | idle _ hn' => rw [hn] at hn'; cases hn'
  | noByte _ _ hn' | byte _ _ _ _ hn' => rw [hn] at hn'; cases hn'; exact absurd rfl hl
  | raised _ _ hn' => rw [hn] at hn'; cases hn'; exact absurd rfl hu
  | noCommand _ _ hn' _ ht | txReady _ _ _ hn' ht =>
    rw [hn] at hn'; cases hn'; subst ht; exact ⟨rfl, rfl, rfl, List.suffix_rfl⟩
  | withdrawn _ _ hn' ht =>
    rw [hn] at hn'; cases hn'; subst ht
    refine ⟨rfl, rfl, rfl, ?_⟩
    cases s.portHeld
    · exact List.tail_suffix _
    · exact List.suffix_rfl
  | command _ w ws i _ hn' hq _ ht =>
    rw [hn] at hn'; cases hn'
    obtain ⟨hr, -, hcq, -, hrxq, hts⟩ := ht.sameInputs
    refine ⟨hr, hts, hrxq, ?_⟩
    rw [hcq, hq]
    cases ready i s
    · exact List.suffix_rfl
    · exact List.suffix_cons w ws
  | encoder _ _ hn' ht =>
    rw [hn] at hn'; cases hn'
    obtain rfl | ⟨e, -, -, -, rfl⟩ := ht
    · exact ⟨rfl, rfl, rfl, List.suffix_rfl⟩
    · simp

/-- A turn that is no `RESET`, with no word of the parser at the port, goes on with the reception. -/
theorem State.Receiving.takeTurn {u : Turn} {ts : List Turn} (h : s.Receiving es ef bytes) (hinv : s.Inv)
    (hw : ∀ w ∈ s.cmdQ, NotParserWord w) (hn : s.turns = u :: ts) (hu : u ≠ .raiseRst) :
    ∃ t, step s = .next t ∧ t.Receiving es ef bytes ∧ t.turns = ts ∧ t.rxQ = s.rxQ.drop ([u].count .link)
      ∧ t.cmdQ <:+ s.cmdQ := by
  by_cases hl : u = .link
  · subst hl
    obtain ⟨t, hstep, ht, hturns, hrxq, hcmdq⟩ := h.step_link hn
    exact ⟨t, hstep, ht, hturns, hrxq.trans List.drop_one.symm, hcmdq ▸ List.suffix_rfl⟩
  · obtain ⟨t, hstep⟩ := invNeverStops s hinv
    obtain ⟨hr, hturns, hrxq, hcmdq⟩ := step_inputs h.rst hn hu hl hstep
    obtain ⟨hp, he⟩ := step_sameParser h.rst hstep
      (fun _ ts' hn' => hl (List.cons.inj (hn.symm.trans hn')).1) fun i ts' _ hi => by
        cases hq : s.cmdQ with
        | nil => rw [portInstr, hq] at hi; cases hi
        | cons w ws =>
          rw [portInstr_cons hq] at hi
          have hi' : parserInstr i = false :=
            Option.some.inj hi ▸ (hw w (hq ▸ List.mem_cons_self)).parserInstr_commandInstr s
          exact ⟨fun es ef he => (by rw [he] at hi'; cases hi'), fun _ => hi'⟩
    have hcount : [u].count .link = 0 := by simp [hl]
    exact ⟨t, hstep, h.congr hp he hr hrxq, hturns, by rw [hcount, hrxq, List.drop_zero], hcmdq⟩

/-- A run of such turns delivers as many bytes as it has turns of the link. -/
theorem State.Receiving.run {mid ts : List Turn} (h : s.Receiving es ef bytes) (hinv : s.Inv)
    (hw : ∀ w ∈ s.cmdQ, NotParserWord w) (hn : s.turns = mid ++ ts) (hu : .raiseRst ∉ mid) :
    ∃ t : State, core.run mid.length s = .next t ∧ t.Receiving es ef bytes ∧ t.rxQ = s.rxQ.drop (mid.count .link) := by
  induction mid generalizing s with
  | nil => exact ⟨s, rfl, h, rfl⟩
  | cons u mid ih =>
    obtain ⟨hne, hmid⟩ := List.ne_and_not_mem_of_not_mem_cons hu
    obtain ⟨t, hstep, ht, hturns, hrxq, hcmdq⟩ := h.takeTurn hinv hw hn hne.symm
    obtain ⟨v, hrun, hv, hvq⟩ := ih ht (stepKeepsInv s t hinv hstep) (fun w hm => hw w (hcmdq.subset hm)) hturns hmid
    refine ⟨v, by rw [List.length_cons, run_next _ hstep, hrun], hv, ?_⟩
    rw [hvq, hrxq, List.drop_drop, ← List.count_append, List.singleton_append]

/-! ### From `DEC.ARM` to `DEC.END` -/

/-- The host's turn on the word of `DEC.ARM` that `DEC.FRAME` issues (R67, R100). -/
theorem step_decArm {ts : List Turn} {ws : List CmdWord} (hrst : s.rst = false) (hn : s.turns = .host :: ts)
    (hq : s.cmdQ = packCommand 4#3 es 0#16 (ef.setWidth 16) :: ws) :
    ∃ a, step s = .next a ∧ a.Receiving es ef s.rxQ ∧ a.turns = ts ∧ a.rxQ = s.rxQ ∧ a.cmdQ = ws := by
  have hd : decodeCommand (packCommand 4#3 es 0#16 (ef.setWidth 16)) = .decArm es ef := by
    have h := decode_decArm (cmdCode_packCommand 4#3 es 0#16 (ef.setWidth 16))
    rw [cmdSlave_packCommand, cmdFunc_packCommand] at h
    have hf : (ef.setWidth 16).extractLsb' 0 8 = ef := by
      rw [← BitVec.setWidth_eq_extractLsb' (by decide), BitVec.setWidth_setWidth_of_le _ (by decide),
        BitVec.setWidth_eq]
    rw [hf] at h
    exact Except.ok.inj h
  rw [step_decodeCommand hrst hn hq, hd]
  exact ⟨_, rfl, State.arm_receiving (s := { s with turns := ts, cmdQ := ws, portHeld := false }) hrst es ef, rfl, rfl,
    rfl⟩

/-- The host's turn on the word of `DEC.END` that `DEC.FRAME` issues (R67, R102). -/
theorem State.Receiving.step_decEnd {ts : List Turn} {ws : List CmdWord} (h : s.Receiving es ef bytes)
    (hn : s.turns = .host :: ts) (hq : s.cmdQ = packCommand 5#3 0#8 0#16 0#16 :: ws) :
    ∃ v : State, step s = exec .decEnd v ∧ v.Receiving es ef bytes ∧ v.rxQ = s.rxQ := by
  have hd : decodeCommand (packCommand 5#3 0#8 0#16 0#16) = .decEnd :=
    Except.ok.inj (decode_decEnd (cmdCode_packCommand 5#3 0#8 0#16 0#16))
  rw [step_decodeCommand h.rst hn hq, hd]
  exact ⟨_, rfl, h.congr (by simp [SameParser]) rfl rfl rfl, rfl⟩

/-- `DEC.FRAME` with no other event between its own ends in `DEC.END` on all the bytes received (R67). -/
theorem run_loadDecFrame (es ef : Byte) (bytes : List Byte) (s : State) :
    ∃ v : State, core.run (bytes.length + 2) (s.loadDecFrame es ef bytes) = exec .decEnd v
      ∧ v.Receiving es ef bytes ∧ v.rxQ = [] := by
  obtain ⟨a, harm, ha, haturns, haq, hacmd⟩ := step_decArm (s := s.loadDecFrame es ef bytes) rfl rfl rfl
  obtain ⟨u, hlinks, hu, huturns, huq, hucmd⟩ := ha.run_links (congrArg List.length haq) haturns
  obtain ⟨v, hend, hv, hvq⟩ := hu.step_decEnd huturns (hucmd.trans hacmd)
  have hrun : core.run (bytes.length + 1) a = step u := run_append_step _ a u hlinks
  exact ⟨v, (run_next _ harm).trans (hrun.trans hend), hv, hvq.trans huq⟩

/-- `DEC.END` at the end of a reception (R102, R115). -/
theorem State.Receiving.exec_decEnd (h : s.Receiving es ef bytes) (hq : s.rxQ = []) :
    ∃ t, exec .decEnd s = .next t ∧ t.decSt = .done ∧ t.rxQ = [] ∧ t.rxFrame = bytes.take 256
      ∧ (t.resStatus, t.resExc) = classify (bytes.take 256) (decide (256 < bytes.length)) es ef := by
  obtain ⟨hframe, hovf⟩ := h.hasReceived hq
  refine ⟨_, exec_decEnd_of_recv h.decSt, by simp, by simpa using hq, ?_, ?_⟩
  · rw [← hframe]
    apply State.rxFrame_congr <;> simp
  · rw [State.deliver_eq _ s (classify_exc _ _ _ _), hframe, hovf, h.expSlave, h.expFunc]

end

/-- Settles O35: `DEC.ARM` begins a reception, the run goes on with it, and `DEC.END` classifies what was received. -/
theorem decFrameIsClassify : Obligations.DecFrameIsClassify := by
  intro s es ef bytes words mid hinv hwords hu hcount
  obtain ⟨a, hstep, harmed, hturns, hrxq, hcmdq⟩ := step_decArm (s := { s with
    rst := false, rxQ := bytes, turns := .host :: mid
    cmdQ := packCommand 4#3 es 0#16 (ef.setWidth 16) :: words }) rfl rfl rfl
  replace harmed : a.Receiving es ef bytes := harmed
  have hainv : a.Inv := stepKeepsInv _ _ (hinv.with_inputs false s.txReady s.portHeld _ bytes _) hstep
  obtain ⟨u, hrun, hrecv, huq⟩ := harmed.run (ts := []) hainv
    (fun w hm => notParserWord_iff.mpr (hwords w (hcmdq ▸ hm))) (hturns.trans (List.append_nil mid).symm) hu
  have hdone : u.rxQ = [] := huq.trans (by rw [hrxq]; exact List.drop_eq_nil_of_le hcount.ge)
  obtain ⟨t, hexec, hst, hq, hframe, hres⟩ := hrecv.exec_decEnd hdone
  refine ⟨u, t, by rw [run_next _ hstep, hrun], hexec, hst, hq, fun hle => ?_, fun hlt => ?_⟩
  · rw [List.take_of_length_le hle] at hframe hres
    rw [decide_eq_false (Nat.not_lt.mpr hle)] at hres
    exact ⟨hres, hframe⟩
  · rw [hres]
    exact classify_of_short (.inl (decide_eq_true hlt)) es ef

/-! ### The echo responder -/

/-- A body followed by its CRC field passes the check (R51, R74). -/
theorem crcGood_append_crcField (body : List Byte) : crcGood (body ++ crcField body) = true := by
  have hz : crc16 (body ++ crcField body) = 0#16 := by
    rw [crc16_append]
    exact (crc16Update_twice_eq_zero _ _ _).mpr (be16_hi8_lo8 _).symm
  exact (crcGood_iff_crc16_eq_zero (by simp [crcField])).mpr hz

/-- A good frame of at most 256 bytes from the expected slave, received whole, is held by the buffer. -/
theorem State.Receiving.holdsFrame {es ef : Byte} {bytes : List Byte} {s : State} (h : s.Receiving es ef bytes)
    (hq : s.rxQ = []) (hlo : 4 ≤ bytes.length) (hhi : bytes.length ≤ 256) (hc : crcGood bytes = true)
    (hs : rxByte bytes 0 = es) : HoldsFrame s (rxByte bytes 1) ∧ s.rxFrame = bytes := by
  obtain ⟨hframe, hovf⟩ := h.hasReceived hq
  rw [List.take_of_length_le hhi] at hframe
  rw [decide_eq_false (Nat.not_lt.mpr hhi)] at hovf
  refine ⟨⟨h.decSt, hovf, ?_, ?_, ?_, ?_⟩, hframe⟩
  · rwa [← State.rxFrame_length, hframe]
  · rwa [hframe]
  · rw [hframe, hs, h.expSlave]
  · rw [hframe]

/-- Settles O36: the echo is received whole, and is a frame of eight bytes for `RSP.WM`, whose pair is that of the
request. -/
theorem echoRoundTrip : Obligations.EchoRoundTrip := by
  intro s slave addr n vbuf _ f e
  have hlen : e.length = 8 := rfl
  obtain ⟨v, hrun, hv, hq⟩ := run_loadDecFrame slave 0x10#8 e s
  obtain ⟨hholds, hframe⟩ := hv.holdsFrame hq (by omega) (by omega) (crcGood_append_crcField _) rfl
  have hsel : parserSelect v = some .rspWm := parserSelect_of_func (op := .wm) hholds hv.expFunc
  obtain ⟨t, hexec, hok, hviews, -, -⟩ := rspWriteVerdict.1 v .rspWm 0x10#8 (.inr ⟨rfl, rfl⟩) hholds hv.expFunc
  have hres : t.resStatus = .ok := hok.mpr (by rw [← State.rxFrame_length, hframe, hlen])
  obtain ⟨haddr, harg⟩ := hviews hres
  rw [hframe] at haddr harg
  exact ⟨t, hrun.trans ((exec_of_parserSelect hsel).symm.trans hexec), hres, haddr.trans (be16_hi8_lo8 addr),
    harg.trans (be16_hi8_lo8 n)⟩

end Sys2Proof.Machine

/-! PROOFS. The reserved command (R125): what `CMD.RSV` writes, and that no event but `RESET` clears `ILLCMD`. -/

namespace Sys2Proof.Machine

/-- No instruction clears `ILLCMD` (R125, R136). -/
theorem ExecEffect.illCmd_of_set {i : Instr} {s t : State} (h : ExecEffect i s t) (hs : s.illCmd = true) :
    t.illCmd = true := by
  cases h with
  | reserved => rfl
  | held | heldEnd | started | badCount | vbufWritten | badIndex | armed | ended | emitted => simpa using hs

theorem decByte_illCmd (b : Byte) (s : State) : (decByte b s).illCmd = s.illCmd := by
  unfold decByte
  split <;> simp

/-- Settles O39: `CMD.RSV` has no guard and writes `ILLCMD` and the log; of the events of a step only `RESET` clears
the flag. -/
theorem cmdRsvSetsIllcmd : Obligations.CmdRsvSetsIllcmd := by
  refine ⟨fun s => ⟨_, rfl, rfl, fun hreset => hreset ▸ rfl⟩, fun s t hs hrst hstep => ?_⟩
  cases step_effect hstep with
  | reset h => rw [hrst] at h; cases h
  | command _ _ _ _ _ _ _ _ ht => exact ht.illCmd_of_set hs
  | encoder _ _ _ ht =>
    obtain rfl | ⟨e, -, -, -, rfl⟩ := ht
    · exact hs
    · simpa using hs
  | byte _ b _ _ _ _ ht => subst ht; exact (decByte_illCmd b _).trans hs
  | idle _ _ ht | noCommand _ _ _ _ ht | noByte _ _ _ _ ht | withdrawn _ _ _ ht | txReady _ _ _ _ ht
  | raised _ _ _ ht => subst ht; exact hs

end Sys2Proof.Machine

/-! PROOFS. The two sequencers (R126): the events that move `ENC_ST` and `DEC_ST`, and that no other event does. -/

namespace Sys2Proof.Machine

/-! ### What an instruction does to a sequencer -/

/-- Of the instructions of the host's turn only an encode command in range moves `ENC_ST` (R126). -/
theorem ExecEffect.encSt_cases {i : Instr} {s t : State} (h : ExecEffect i s t) (hi : ∀ op, i ≠ reqInstr op) :
    t.encSt = s.encSt ∨ (s.encSt = .idle ∧ t.encSt = .send
      ∧ ∃ op slave addr arg, i = encInstr op slave addr arg ∧ countOk op arg = true) := by
  cases h with
  | started op sl a g a' g' n _ hidle hc hop =>
    refine .inr ⟨hidle, rfl, op, sl, a, g, rfl, ?_⟩
    by_cases hid : op = .id
    · subst hid; rfl
    · obtain ⟨-, rfl⟩ := hop hid
      exact hc
  | emitted op => exact absurd rfl (hi op)
  | held | heldEnd | badCount | vbufWritten | badIndex | armed | ended | reserved => exact .inl (by simp)

/-- Only `DEC.ARM`, and `DEC.END` or the row it selects in `RECV`, move `DEC_ST` (R126). -/
theorem ExecEffect.decSt_cases {i : Instr} {s t : State} (h : ExecEffect i s t) :
    t.decSt = s.decSt ∨ (t.decSt = .recv ∧ ∃ es ef, i = .decArm es ef)
      ∨ (s.decSt = .recv ∧ t.decSt = .done ∧ (i = .decEnd ∨ parserSelect s = some i)) := by
  cases h with
  | armed es ef => exact .inr (.inl ⟨rfl, es, ef, rfl⟩)
  | ended _ _ hr hend => exact .inr (.inr ⟨hr, by simp, hend⟩)
  | held | heldEnd | started | badCount | vbufWritten | badIndex | reserved | emitted => exact .inl (by simp)

/-- An encode command in range starts sending (R80). -/
theorem exec_encInstr_sends {op : ReqOp} {slave : Byte} {addr arg : Word16} {s t : State}
    (hx : exec (encInstr op slave addr arg) s = .next t) (hs : s.encSt = .idle) (hc : countOk op arg = true) :
    t.encSt = .send := by
  obtain ⟨t', hx', hsent⟩ := exec_encInstr_hasSent hs hc slave addr
  cases hx'.symm.trans hx
  exact (hsent false false [] [] []).sending (Nat.succ_pos _)

/-- The row of the last byte of a frame leaves `SEND` (R86). -/
theorem exec_reqInstr_last {op : ReqOp} {s t : State} (hx : exec (reqInstr op) s = .next t) (hop : s.cmdOp = op)
    (hs : s.encSt = .send) (hr : s.txReady = true) (hl : s.txIdx.toNat + 1 = s.txLen.toNat) : t.encSt = .idle := by
  have hready : emitReady op s = true := by simp [emitReady, hs, hr, hop]
  rw [exec_reqInstr, if_pos hready] at hx
  obtain ⟨e, he, rfl⟩ := emit_next.mp hx
  have hlast : e.last = true := (emission_last he).trans (decide_eq_true hl)
  rw [State.sendByte_encSt, if_pos hlast]

/-! ### What a step does to a sequencer -/

/-- While `rst` is set the step is `RESET` (R150). -/
theorem step_of_rst {s : State} (h : s.rst = true) : step s = .next s.resetStep := by
  rw [step, fetch, if_pos h]
  rfl

/-- The host's turn runs the instruction at the port in a state that differs only in the port and the schedule (R10,
R46). -/
theorem step_portInstr {s : State} {ts : List Turn} {i : Instr} (hrst : s.rst = false) (hn : s.turns = .host :: ts)
    (hi : portInstr s = some i) :
    step s = exec i { s with
      turns := ts, cmdQ := if ready i s then s.cmdQ.tail else s.cmdQ, portHeld := !ready i s } := by
  cases hq : s.cmdQ with
  | nil => rw [portInstr, hq] at hi; cases hi
  | cons w ws =>
    obtain rfl : commandInstr w s = i := Option.some.inj ((portInstr_cons hq).symm.trans hi)
    exact step_command hrst hn hq

/-- The table of `ENC_ST` (R126). -/
theorem step_encSt_cases {s t : State} (hrst : s.rst = false) (hstep : step s = .next t) :
    t.encSt = s.encSt
    ∨ (s.encSt = .idle ∧ t.encSt = .send ∧ ∃ op slave addr arg ts, s.turns = .host :: ts
      ∧ portInstr s = some (encInstr op slave addr arg) ∧ countOk op arg = true)
    ∨ (s.encSt = .send ∧ t.encSt = .idle ∧ (∃ ts, s.turns = .enc :: ts) ∧ s.txReady = true
      ∧ s.txIdx.toNat + 1 = s.txLen.toNat) := by
  cases step_effect hstep with
  | reset h => rw [hrst] at h; cases h
  | command ts w ws i _ hn hq hw ht =>
    obtain h | ⟨hs, hsend, op, sl, a, g, hi, hc⟩ := ht.encSt_cases fun op => hw ▸ commandInstr_ne_request w s op
    · exact .inl h
    · exact .inr (.inl ⟨hs, hsend, op, sl, a, g, ts, hn, by rw [portInstr_cons hq, ← hw, hi], hc⟩)
  | encoder ts _ hn ht =>
    obtain rfl | ⟨e, hs, hr, he, rfl⟩ := ht
    · exact .inl rfl
    · have hlast := emission_last he
      by_cases hl : s.txIdx.toNat + 1 = s.txLen.toNat
      · exact .inr (.inr ⟨hs, by simp [hlast, hl], ⟨ts, hn⟩, hr, hl⟩)
      · exact .inl (by simp [hlast, hl])
  | byte _ b _ _ _ _ ht => subst ht; exact .inl (decByte_sameEncoder b _).1
  | idle _ _ ht | noCommand _ _ _ _ ht | noByte _ _ _ _ ht | withdrawn _ _ _ ht | txReady _ _ _ _ ht
  | raised _ _ _ ht => subst ht; exact .inl rfl

/-- The table of `DEC_ST` (R126). -/
theorem step_decSt_cases {s t : State} (hrst : s.rst = false) (hstep : step s = .next t) :
    t.decSt = s.decSt
    ∨ (t.decSt = .recv ∧ ∃ es ef ts, s.turns = .host :: ts ∧ portInstr s = some (.decArm es ef))
    ∨ (s.decSt = .recv ∧ t.decSt = .done ∧ ∃ w ws ts, s.turns = .host :: ts ∧ s.cmdQ = w :: ws
      ∧ decode (.command w) = .ok .decEnd) := by
  cases step_effect hstep with
  | reset h => rw [hrst] at h; cases h
  | command ts w ws i _ hn hq hw ht =>
    obtain h | ⟨hrecv, es, ef, hi⟩ | ⟨hrecv, hdone, hend⟩ := ht.decSt_cases
    · exact .inl h
    · exact .inr (.inl ⟨hrecv, es, ef, ts, hn, by rw [portInstr_cons hq, ← hw, hi]⟩)
    · exact .inr (.inr ⟨hrecv, hdone, w, ws, ts, hn, hq, decode_of_ended (hw ▸ hend)⟩)
  | encoder _ _ _ ht => obtain rfl | ⟨e, -, -, -, rfl⟩ := ht <;> exact .inl (by simp)
  | byte _ b _ _ _ _ ht => subst ht; exact .inl (decByte_expected b _).1
  | idle _ _ ht | noCommand _ _ _ _ ht | noByte _ _ _ _ ht | withdrawn _ _ _ ht | txReady _ _ _ _ ht
  | raised _ _ _ ht => subst ht; exact .inl rfl

/-- Settles O49: no other event moves a sequencer by `step_encSt_cases` and `step_decSt_cases`, and each event of the
tables moves its own by what its instruction does. -/
theorem sequencerTransitions : Obligations.SequencerTransitions := by
  intro s t hstep
  refine ⟨fun hrst => ?_, fun hrst => ⟨fun hs => ⟨fun hsend => ?_, ?_⟩, fun hs => ?_, fun hs => ⟨fun hidle => ?_, ?_⟩,
    ?_, fun hd => ?_, fun hne => ?_⟩⟩
  · rw [step_of_rst hrst] at hstep
    cases hstep
    exact ⟨rfl, rfl⟩
  · obtain h | ⟨-, -, hstart⟩ | ⟨h, -⟩ := step_encSt_cases hrst hstep
    · rw [hs, hsend] at h; cases h
    · exact hstart
    · rw [hs] at h; cases h
  · rintro ⟨op, sl, a, g, ts, hn, hi, hc⟩
    rw [step_portInstr hrst hn hi] at hstep
    exact exec_encInstr_sends hstep hs hc
  · rintro ⟨op, sl, a, g, ts, hn, hi, -, hc⟩
    rw [step_portInstr hrst hn hi, exec_encInstr_of_badCount (by exact hs) hc] at hstep
    cases hstep
    rfl
  · obtain h | ⟨h, -⟩ | ⟨-, -, hlast⟩ := step_encSt_cases hrst hstep
    · rw [hs, hidle] at h; cases h
    · rw [hs] at h; cases h
    · exact hlast
  · rintro ⟨⟨ts, hn⟩, hr, hl⟩
    rw [step_encoder hrst hn] at hstep
    exact exec_reqInstr_last hstep rfl hs hr hl
  · rintro ⟨es, ef, ts, hn, hi⟩
    rw [step_portInstr hrst hn hi] at hstep
    cases hstep
    rfl
  · rintro ⟨w, ws, ts, hn, hq, hw⟩
    have hw : decodeCommand w = .decEnd := Except.ok.inj hw
    rw [step_decodeCommand hrst hn hq, hw, exec_decEnd_of_recv (by exact hd)] at hstep
    cases hstep
    simp
  · exact (step_decSt_cases hrst hstep).resolve_left hne

end Sys2Proof.Machine

/-! PROOFS. The encoder's errors (R131), and what changes `ENC_ERR` and clears a parser result (R136). -/

namespace Sys2Proof.Machine

/-- Settles O11: the count's or the index's range decides between the error and `None`. -/
theorem encoderErrorTaxonomy : Obligations.EncoderErrorTaxonomy := by
  intro s slave addr arg hs
  refine ⟨fun hc => ⟨_, exec_encInstr_of_badCount (op := .rh) hs (countOk_rh_eq_false hc) slave addr, rfl⟩,
    fun hc => ⟨_, exec_encInstr_of_badCount (op := .wm) hs (countOk_wm_eq_false hc) slave addr, rfl⟩,
    fun hi => ⟨_, exec_vbufWr_badIndex arg hs hi, rfl⟩, fun op hc => ?_,
    fun hi => ⟨_, exec_vbufWr_of_index_le arg hs hi, rfl⟩⟩
  by_cases hop : op = .id
  · subst hop
    exact ⟨_, exec_encId_of_idle hs slave, rfl⟩
  · exact ⟨_, exec_encInstr_of_countOk hop hs hc slave addr, rfl⟩

/-- The instructions that write `ENC_ERR` are the encode commands and `VBUF.WR`, in `IDLE` (R14, R131). -/
theorem ExecEffect.encErr_changed {i : Instr} {s t : State} (h : ExecEffect i s t) (he : t.encErr ≠ s.encErr) :
    s.encSt = .idle
    ∧ ((∃ op slave addr arg, i = encInstr op slave addr arg) ∨ ∃ index value, i = .vbufWr index value) := by
  cases h with
  | started op sl a g _ _ _ _ hi | badCount op sl a g _ hi => exact ⟨hi, .inl ⟨op, sl, a, g, rfl⟩⟩
  | vbufWritten k v _ hi | badIndex k v _ hi => exact ⟨hi, .inr ⟨k, v, rfl⟩⟩
  | held | heldEnd | armed | ended | reserved | emitted => exact absurd (by simp) he

@[simp] theorem State.deliver_resStatus (v : ResStatus × Byte) (s : State) : (s.deliver v).resStatus = v.1 := by
  unfold State.deliver
  split
  · exact Eq.symm ‹_›
  · rfl

/-- Of the instructions only `DEC.ARM` clears a parser result (R136). -/
theorem ExecEffect.resStatus_cleared {i : Instr} {s t : State} (h : ExecEffect i s t) (hs : s.resStatus ≠ .none)
    (ht : t.resStatus = .none) : ∃ es ef, i = .decArm es ef := by
  cases h with
  | armed es ef => exact ⟨es, ef, rfl⟩
  | ended => exact absurd ((State.deliver_resStatus _ s).symm.trans ht) (classify_ne_none _ _ _ _)
  | held | heldEnd | started | badCount | vbufWritten | badIndex | reserved | emitted =>
    exact absurd (by simpa using ht) hs

theorem decByte_resStatus (b : Byte) (s : State) : (decByte b s).resStatus = s.resStatus := by
  unfold decByte
  split <;> simp

/-- A step that is no `RESET` keeps `RES_STATUS` and `ENC_ERR`, or is a turn of the host that runs the instruction at
the port. -/
theorem step_keepsFaults_or_host {s t : State} (hrst : s.rst = false) (hstep : step s = .next t) :
    (t.resStatus = s.resStatus ∧ t.encErr = s.encErr)
    ∨ ∃ ts i q held, s.turns = .host :: ts ∧ portInstr s = some i
      ∧ ExecEffect i { s with turns := ts, cmdQ := q, portHeld := held } t := by
  cases step_effect hstep with
  | reset h => rw [hrst] at h; cases h
  | command ts _ _ i _ hn hq hw ht => exact .inr ⟨ts, i, _, _, hn, by rw [portInstr_cons hq, hw], ht⟩
  | encoder _ _ _ ht => obtain rfl | ⟨e, -, -, -, rfl⟩ := ht <;> exact .inl (by simp)
  | byte ts b bs _ _ _ ht =>
    subst ht
    obtain ⟨-, -, -, -, herr, -⟩ := decByte_sameEncoder b { s with turns := ts, rxQ := bs }
    exact .inl ⟨decByte_resStatus b _, herr⟩
  | idle _ _ ht | noCommand _ _ _ _ ht | noByte _ _ _ _ ht | withdrawn _ _ _ ht | txReady _ _ _ _ ht
  | raised _ _ _ ht => subst ht; exact .inl ⟨rfl, rfl⟩

/-- Settles O56: only the instruction at the port writes either register, and then it is one of those named. -/
theorem faultsClearedOnlyBySpecEvents : Obligations.FaultsClearedOnlyBySpecEvents := by
  intro s t hstep hrst
  obtain ⟨hres, herr⟩ | ⟨ts, i, q, held, hn, hport, ht⟩ := step_keepsFaults_or_host hrst hstep
  · exact ⟨fun hs hclear => absurd (hres.symm.trans hclear) hs, absurd herr⟩
  · refine ⟨fun hs hclear => ?_, fun hchanged => ?_⟩
    · obtain ⟨es, ef, rfl⟩ := ht.resStatus_cleared hs hclear
      exact ⟨es, ef, ts, hn, hport⟩
    · obtain ⟨hidle, ⟨op, sl, a, g, rfl⟩ | ⟨k, v, rfl⟩⟩ := ht.encErr_changed hchanged
      · exact ⟨hidle, ts, hn, .inl ⟨op, sl, a, g, hport⟩⟩
      · exact ⟨hidle, ts, hn, .inr ⟨k, v, hport⟩⟩

end Sys2Proof.Machine

/-! PROOFS. The model's fault log (R137; log 5). -/

namespace Sys2Proof.Machine

/-- The fault log of `t` is that of `s`, or one record longer. -/
def LogGrows (s t : State) : Prop := ∃ l, t.faultLog = s.faultLog ++ l ∧ l.length ≤ 1

theorem LogGrows.of_eq {s t : State} (h : t.faultLog = s.faultLog) : LogGrows s t := ⟨[], by simp [h]⟩

theorem LogGrows.of_record {s t : State} {r : FaultRecord} (h : t.faultLog = s.faultLog ++ [r]) : LogGrows s t :=
  ⟨[r], h, Nat.le_refl 1⟩

/-- A longer log keeps its records of host-program errors. -/
theorem LogGrows.trusted_eq_false {s t : State} (h : LogGrows s t) (hs : s.trusted = false) : t.trusted = false := by
  obtain ⟨l, hl, -⟩ := h
  simp only [State.trusted, Bool.not_eq_false'] at hs ⊢
  rw [hl, List.any_append, hs, Bool.true_or]

theorem State.deliver_logGrows (v : ResStatus × Byte) (s : State) : LogGrows s (s.deliver v) := by
  unfold State.deliver
  split
  · exact .of_eq rfl
  · exact .of_record rfl

/-- `ENC.EMIT` records at most the entry it reads (R153). -/
theorem State.sendByte_logGrows (e : Emission) (s : State) : LogGrows s (s.noteUnwritten.sendByte e) := by
  obtain h | ⟨k, -, -, h⟩ := noteUnwritten_eq s
  · exact .of_eq (by rw [h]; rfl)
  · exact .of_record (by rw [h]; rfl)

theorem decByte_faultLog (b : Byte) (s : State) : (decByte b s).faultLog = s.faultLog := by
  unfold decByte
  split <;> simp

theorem ExecEffect.logGrows {i : Instr} {s t : State} (h : ExecEffect i s t) : LogGrows s t := by
  cases h with
  | held | started | vbufWritten | armed => exact .of_eq rfl
  | heldEnd | badCount | badIndex | reserved => exact .of_record rfl
  | ended => exact State.deliver_logGrows _ s
  | emitted _ e => exact State.sendByte_logGrows e s

theorem step_logGrows {s t : State} (hstep : step s = .next t) : LogGrows s t := by
  cases step_effect hstep with
  | command _ _ _ _ _ _ _ _ ht => exact ht.logGrows
  | encoder _ _ _ ht =>
    obtain rfl | ⟨e, -, -, -, rfl⟩ := ht
    · exact .of_eq rfl
    · exact State.sendByte_logGrows e _
  | byte _ b _ _ _ _ ht => subst ht; exact .of_eq (decByte_faultLog b _)
  | reset _ ht | idle _ _ ht | noCommand _ _ _ _ ht | noByte _ _ _ _ ht | withdrawn _ _ _ ht | txReady _ _ _ _ ht
  | raised _ _ _ ht => subst ht; exact .of_eq rfl

/-- Settles O57: a step appends at most one record, and a record of a host-program error stays. -/
theorem faultLogOnlyGrows : Obligations.FaultLogOnlyGrows := fun _ _ hstep =>
  ⟨step_logGrows hstep, (step_logGrows hstep).trusted_eq_false⟩

end Sys2Proof.Machine

/-! PROOFS. The codes of `RES_STATUS` and the cause of each (R130, R133): the last two stages of `Classify`, then the
way through all of them. -/

namespace Sys2Proof.Machine

/-- The layout that stage 6 asks of a response to the function `ef` (R110 to R113). -/
def FitsLayout (r : List Byte) (ef : Byte) : Prop :=
  ef = Config.fcRh ∧ (rxByte r 2).toNat % 2 = 0 ∧ 2 ≤ (rxByte r 2).toNat ∧ (rxByte r 2).toNat ≤ 250
      ∧ r.length = 5 + (rxByte r 2).toNat
    ∨ (ef = Config.fcWs ∨ ef = Config.fcWm) ∧ r.length = 8
    ∨ ef = Config.fcId ∧ r.length = 5 + (rxByte r 2).toNat

theorem FitsLayout.bit7 {r : List Byte} {ef : Byte} (h : FitsLayout r ef) : ef.getLsbD 7 = false := by
  obtain ⟨rfl, -⟩ | ⟨rfl | rfl, -⟩ | ⟨rfl, -⟩ := h <;> rfl

/-- No exception function byte has a layout of stage 6. -/
theorem not_func_and_fitsLayout_of_bit7 {r : List Byte} {fn ef : Byte} (h7 : fn.getLsbD 7 = true) :
    ¬ (fn = ef ∧ FitsLayout r ef) := by
  rintro ⟨rfl, hfit⟩
  rw [hfit.bit7] at h7
  cases h7

/-! ### `Classify` on a frame that passes stages 1 to 3 -/

section
variable {r : List Byte} {es ef : Byte}

/-- Stage 4 (R108). -/
theorem classify_of_exc (hn : 4 ≤ r.length) (hc : crcGood r = true) (hs : rxByte r 0 = es)
    (h7 : (rxByte r 1).getLsbD 7 = true) (ef : Byte) : classify r false es ef = verdictExc r := by
  have hmin : ¬ (false = true ∨ r.length < Config.minFrame) := by simp [Config.minFrame, hn]
  rw [classify, if_neg hmin, if_neg (by simp [hc]), if_neg (not_not.mpr hs), if_pos h7]

/-- Stages 4 and 5 pass: the layout of `EXP_FUNC` decides (R110 to R113). -/
theorem classify_of_func (hn : 4 ≤ r.length) (hc : crcGood r = true) (hs : rxByte r 0 = es) (hf : rxByte r 1 = ef)
    (h7 : ef.getLsbD 7 = false) :
    classify r false es ef = if ef = Config.fcRh then verdictRh r
      else if ef = Config.fcWs then verdictWs r
      else if ef = Config.fcWm then verdictWm r
      else if ef = Config.fcId then verdictId r
      else (.malformed, 0#8) := by
  have hmin : ¬ (false = true ∨ r.length < Config.minFrame) := by simp [Config.minFrame, hn]
  rw [classify, if_neg hmin, if_neg (by simp [hc]), if_neg (not_not.mpr hs), hf, if_neg (Bool.eq_false_iff.mp h7),
    if_neg (not_not.mpr rfl)]

/-- Stage 6 on a layout that fits (R110 to R113). -/
theorem classify_of_fits (hn : 4 ≤ r.length) (hc : crcGood r = true) (hs : rxByte r 0 = es) (hf : rxByte r 1 = ef)
    (hfit : FitsLayout r ef) : classify r false es ef = (.ok, 0#8) := by
  refine (classify_of_func hn hc hs hf hfit.bit7).trans ?_
  obtain ⟨rfl, heven, hlo, hhi, hlen⟩ | ⟨rfl | rfl, hlen⟩ | ⟨rfl, hlen⟩ := hfit
  · change verdictRh r = _
    exact if_pos ⟨by omega, (odd_bit _).mpr heven, hlo, hhi, hlen⟩
  · change verdictWs r = _
    exact if_pos hlen
  · change verdictWm r = _
    exact if_pos hlen
  · change verdictId r = _
    exact if_pos ⟨by omega, hlen⟩

/-- Stage 6 on a layout that does not fit, or of an unsupported `EXP_FUNC` (R109 to R113). -/
theorem classify_of_not_fits (hn : 4 ≤ r.length) (hc : crcGood r = true) (hs : rxByte r 0 = es) (hf : rxByte r 1 = ef)
    (h7 : ef.getLsbD 7 = false) (hfit : ¬ FitsLayout r ef) : classify r false es ef = (.malformed, 0#8) := by
  by_cases hno : ∀ op : ReqOp, ef ≠ op.func
  · exact classify_of_no_format hn hc hs (hf ▸ h7) (hf ▸ hno)
  · obtain ⟨op, rfl⟩ := not_forall_not.mp hno
    refine (classify_of_func hn hc hs hf h7).trans ?_
    cases op with
    | rh =>
      change verdictRh r = _
      exact if_neg fun ⟨_, heven, hlayout⟩ => hfit (.inl ⟨rfl, (odd_bit _).mp heven, hlayout⟩)
    | ws =>
      change verdictWs r = _
      exact if_neg fun hlen => hfit (.inr (.inl ⟨.inl rfl, hlen⟩))
    | wm =>
      change verdictWm r = _
      exact if_neg fun hlen => hfit (.inr (.inl ⟨.inr rfl, hlen⟩))
    | id =>
      change verdictId r = _
      exact if_neg fun ⟨_, hlen⟩ => hfit (.inr (.inr ⟨rfl, hlen⟩))

end

/-- The ways through the stages of `Classify`, each with its verdict (R104 to R113). -/
inductive ClassifyCase (r : List Byte) (es ef : Byte) : Bool → ResStatus × Byte → Prop where
  /-- Stage 1 fails: an overflow, or a sequence too short for a CRC. -/
  | short (ovf : Bool) (h : ¬ (ovf = false ∧ 4 ≤ r.length)) : ClassifyCase r es ef ovf (.malformed, 0#8)
  /-- Stage 2 fails. -/
  | badCrc (hn : 4 ≤ r.length) (hc : crcGood r = false) : ClassifyCase r es ef false (.crcMismatch, 0#8)
  /-- Stage 3 fails. -/
  | otherSlave (hn : 4 ≤ r.length) (hc : crcGood r = true) (hs : rxByte r 0 ≠ es) :
      ClassifyCase r es ef false (.slaveMismatch, 0#8)
  /-- Stage 4 on an exception frame. -/
  | exception (hn : 4 ≤ r.length) (hc : crcGood r = true) (hs : rxByte r 0 = es)
      (h7 : (rxByte r 1).getLsbD 7 = true) (h5 : r.length = 5) :
      ClassifyCase r es ef false (.exceptionResponse, rxByte r 2)
  /-- Stage 4 on an exception frame of another length. -/
  | exceptionLength (hn : 4 ≤ r.length) (hc : crcGood r = true) (hs : rxByte r 0 = es)
      (h7 : (rxByte r 1).getLsbD 7 = true) (h5 : r.length ≠ 5) : ClassifyCase r es ef false (.malformed, 0#8)
  /-- Stage 5 or stage 6 fails. -/
  | noResponse (hn : 4 ≤ r.length) (hc : crcGood r = true) (hs : rxByte r 0 = es)
      (h7 : (rxByte r 1).getLsbD 7 = false) (h : rxByte r 1 ≠ ef ∨ ¬ FitsLayout r ef) :
      ClassifyCase r es ef false (.malformed, 0#8)
  /-- Every stage passes. -/
  | ok (hn : 4 ≤ r.length) (hc : crcGood r = true) (hs : rxByte r 0 = es) (hf : rxByte r 1 = ef)
      (hfit : FitsLayout r ef) : ClassifyCase r es ef false (.ok, 0#8)

theorem classifyCase_of_addressed {r : List Byte} {es : Byte} (hn : 4 ≤ r.length) (hc : crcGood r = true)
    (hs : rxByte r 0 = es) (ef : Byte) : ClassifyCase r es ef false (classify r false es ef) := by
  cases h7 : (rxByte r 1).getLsbD 7 with
  | true =>
    rw [classify_of_exc hn hc hs h7, verdictExc]
    split
    · exact .exception hn hc hs h7 ‹_›
    · exact .exceptionLength hn hc hs h7 ‹_›
  | false =>
    by_cases hf : rxByte r 1 = ef
    · by_cases hfit : FitsLayout r ef
      · rw [classify_of_fits hn hc hs hf hfit]
        exact .ok hn hc hs hf hfit
      · rw [classify_of_not_fits hn hc hs hf (hf ▸ h7) hfit]
        exact .noResponse hn hc hs h7 (.inr hfit)
    · rw [classify_of_func_ne hn hc hs h7 hf]
      exact .noResponse hn hc hs h7 (.inl hf)

theorem classifyCase (r : List Byte) (ovf : Bool) (es ef : Byte) : ClassifyCase r es ef ovf (classify r ovf es ef) := by
  by_cases hlong : ovf = false ∧ 4 ≤ r.length
  · obtain ⟨rfl, hn⟩ := hlong
    cases hc : crcGood r with
    | false =>
      rw [classify_of_crc_bad hn hc]
      exact .badCrc hn hc
    | true =>
      by_cases hs : rxByte r 0 = es
      · exact classifyCase_of_addressed hn hc hs ef
      · rw [classify_of_slave_ne hn hc hs]
        exact .otherSlave hn hc hs
  · have hshort : ovf = true ∨ r.length < 4 :=
      (not_and_or.mp hlong).imp (Bool.not_eq_false _).mp Nat.lt_of_not_le
    rw [classify_of_short hshort]
    exact .short ovf hlong

/-- `DEC.END` in `RECV` leaves the pair of `Classify` (R102). -/
theorem exec_decEnd_result {s t : State} (hd : s.decSt = .recv) (hx : exec .decEnd s = .next t) :
    (t.resStatus, t.resExc) = classify s.rxFrame s.rxOvf s.expSlave s.expFunc := by
  rw [exec_decEnd_of_recv hd, State.deliver_eq _ s (classify_exc _ _ _ _)] at hx
  cases hx
  rfl

/-- Settles O34: each way through the stages of `Classify` fixes the verdict and the causes. -/
theorem resultTaxonomy : Obligations.ResultTaxonomy := by
  refine ⟨by decide, fun s t hd hx => ?_⟩
  intro r n ef long addressed fits
  have hlen : r.length = n := s.rxFrame_length
  have hlong : s.rxOvf = false ∧ 4 ≤ r.length ↔ long := by rw [hlen]
  have haddr : addressed ↔ long ∧ crcGood r = true ∧ rxByte r 0 = s.expSlave := Iff.rfl
  have hfits : FitsLayout r ef = fits := by rw [FitsLayout, hlen]; rfl
  have hcase : ClassifyCase r s.expSlave ef s.rxOvf (t.resStatus, t.resExc) :=
    exec_decEnd_result hd hx ▸ classifyCase r s.rxOvf s.expSlave ef
  clear_value fits addressed long ef n r
  generalize s.rxOvf = ovf, t.resStatus = st, t.resExc = exc at hcase hlong ⊢
  subst hlen hfits
  cases hcase with
  | short _ h => simp [ResStatus.code, haddr, hlong.not.mp h]
  | badCrc hn hc => simp [ResStatus.code, haddr, hlong.mp ⟨rfl, hn⟩, hc]
  | otherSlave hn hc hs => simp [ResStatus.code, haddr, hlong.mp ⟨rfl, hn⟩, hc, hs]
  | exception hn hc hs h7 h5 | exceptionLength hn hc hs h7 h5 =>
    have hno := not_func_and_fitsLayout_of_bit7 (r := r) (ef := ef) h7
    simp [ResStatus.code, haddr, hlong.mp ⟨rfl, hn⟩, hc, hs, h7, h5, hno]
  | noResponse hn hc hs h7 h =>
    have hno : ¬ (rxByte r 1 = ef ∧ FitsLayout r ef) := not_and_or.mpr h
    simp [-BitVec.getLsbD_eq_getElem, ResStatus.code, haddr, hlong.mp ⟨rfl, hn⟩, hc, hs, h7, ← not_and_or, hno]
  | ok hn hc hs hf hfit =>
    simp [-BitVec.getLsbD_eq_getElem, ResStatus.code, haddr, hlong.mp ⟨rfl, hn⟩, hc, hs, hf, hfit, hfit.bit7]

end Sys2Proof.Machine

/-! PROOFS. The record of an unwritten value (R153; log 5): when `ENC.EMIT` makes one, and of which entry. -/

namespace Sys2Proof.Machine

/-- A frame of another layout reads no entry of `VBUF`, and of a WM body the bytes `7+2k` and `8+2k` read entry `k`
(R54). -/
theorem State.vbufIndexRead_eq_some_iff {s : State} {k : Nat} :
    s.vbufIndexRead = some k ↔ s.cmdOp = .wm ∧ (s.txIdx.toNat = 7 + 2 * k ∨ s.txIdx.toNat = 8 + 2 * k)
      ∧ s.txIdx.toNat + 2 < s.txLen.toNat := by
  rw [State.vbufIndexRead, Option.ite_none_right_eq_some, Option.some.injEq]
  constructor
  · rintro ⟨⟨hop, hlo, hhi⟩, hk⟩
    exact ⟨hop, by omega, hhi⟩
  · rintro ⟨hop, hidx, hhi⟩
    exact ⟨⟨hop, by omega, hhi⟩, by omega⟩

/-- The log names entry `k` exactly when the byte reads it and nothing has written it (R153, 93 U1). -/
theorem State.noteUnwritten_records_iff {s : State} {k : Nat} :
    s.noteUnwritten.faultLog = s.faultLog ++ [.vbufUnwritten k] ↔
      Memory.lookup s.vbuf k = none ∧ s.vbufIndexRead = some k := by
  unfold State.noteUnwritten
  cases s.vbufIndexRead with
  | none => simp
  | some j =>
    by_cases hj : Memory.lookup s.vbuf j = none
    · simpa [hj] using fun h : j = k => h ▸ hj
    · simpa [hj] using fun hk (h : j = k) => hj (h ▸ hk)

/-- Settles O19: sending the byte adds nothing to the log that `noteUnwritten` leaves. -/
theorem unwrittenValueRecorded : Obligations.UnwrittenValueRecorded := by
  intro s t k hready hexec
  rw [show exec .reqWm s = emit s from if_pos hready] at hexec
  obtain ⟨e, -, rfl⟩ := emit_next.mp hexec
  have hop : s.cmdOp = .wm := by
    simp only [emitReady, Bool.and_eq_true, decide_eq_true_eq] at hready
    exact hready.2
  rw [State.sendByte_faultLog, State.noteUnwritten_records_iff, State.vbufIndexRead_eq_some_iff]
  simp only [hop, true_and]

end Sys2Proof.Machine

/-! PROOFS. `RESET` (R150, R151), and the hold of a `DEC.END` outside `RECV`, which it ends (R156; log 7). -/

namespace Sys2Proof.Machine

/-- Settles O42: the step is `State.resetStep`, which leaves the parser in `IDLE`, where every view is off. -/
theorem resetStep : Obligations.ResetStep := by
  intro s hrst
  have off {p : Prop} : ¬ (s.resetStep.viewsOn = true ∧ p) := State.view_off (.inl nofun)
  have hstatus : s.resetStep.status = State.reset.status := rfl
  have hword (i : Nat) := s.resetStep.resWord_off i off
  have hbyte (i : Nat) := s.resetStep.resByte_off i off
  exact ⟨s.resetStep, step_of_rst hrst, rfl, rfl, rfl, rfl, rfl, rfl, rfl, rfl, rfl, rfl, rfl, rfl, rfl,
    fun _ => ⟨rfl, rfl⟩, rfl, rfl, rfl, rfl, rfl, hstatus.trans (by decide), (hword 0).1, if_neg off, if_neg off,
    (hbyte 0).1, fun i => ⟨(hword i).2, (hbyte i).2⟩⟩

/-- `s` with no word at the command port. -/
def State.freePort (s : State) : State := { s with cmdQ := [], portHeld := false }

/-- A turn of the encoder has no part in the command port (R41, R86). -/
theorem step_enc_freePort {s : State} {ts : List Turn} (hrst : s.rst = false) (hn : s.turns = .enc :: ts) :
    step s.freePort = mapNext State.freePort (step s) := by
  rw [step_encoder hrst hn, step_encoder (s := s.freePort) hrst hn]
  exact exec_reqInstr_comm (f := State.freePort) (s := { s with turns := ts }) rfl rfl fun e =>
    congrArg (State.sendByte e) (State.noteUnwritten_comm (f := State.freePort) rfl rfl fun _ => rfl)

/-- A turn of the link has no part in the command port (R41, R101, R103). -/
theorem step_link_freePort {s : State} {ts : List Turn} (hrst : s.rst = false) (hn : s.turns = .link :: ts) :
    step s.freePort = mapNext State.freePort (step s) := by
  rw [step_link hrst hn, step_link (s := s.freePort) hrst hn]
  exact congrArg _ (State.receive_comm (f := State.freePort) (fun _ _ => rfl) { s with turns := ts })

/-- The guard of a `DEC.END` that occupies the port is false (R102, R156). -/
theorem PortHung.cmdReady {s : State} (h : PortHung s) : s.cmdReady = false := by
  obtain ⟨hd, -, w, ws, hq, hw⟩ := h
  rw [State.cmdReady_eq hq, show decodeCommand w = .decEnd from Except.ok.inj hw]
  exact decide_eq_false hd

/-- No step but `RESET` brings the parser to `RECV` while the port is hung: `DEC.ARM` is not at the port (R126, R156). -/
theorem PortHung.step_decSt {s t : State} (h : PortHung s) (hrst : s.rst = false) (hstep : step s = .next t) :
    t.decSt ≠ .recv := by
  obtain hkeep | ⟨-, es, ef, ts, -, harm⟩ | ⟨hrecv, -⟩ := step_decSt_cases hrst hstep
  · exact hkeep ▸ h.1
  · have hr := h.cmdReady
    rw [State.cmdReady, harm] at hr
    cases hr
  · exact absurd hrecv h.1

/-- No step but `RESET` frees a hung port: the word is neither accepted nor given up (R156; log 7). -/
theorem PortHung.step_port {s t : State} (h : PortHung s) (hrst : s.rst = false) (hstep : step s = .next t) :
    t.cmdQ = s.cmdQ ∧ t.portHeld = true := by
  obtain ⟨-, hheld, w, ws, hq, -⟩ := id h
  obtain ⟨ts, -, hcq, hph⟩ | ⟨ts, -, hcq, hph⟩ | ⟨-, -, hcq, hph⟩ := Machine.step_port hrst hq hstep
  · simpa [h.cmdReady] using And.intro hcq hph
  · simpa [hheld] using And.intro hcq hph
  · exact ⟨hcq, hph.trans hheld⟩

/-- Settles O55: the hold outlasts every step but `RESET`, the encoder and the link have no part in the port, and after
`RESET` the word at the port does not occupy it. -/
theorem decEndOutsideRecvHangs : Obligations.DecEndOutsideRecvHangs := by
  refine ⟨fun s t h hrst hstep => ?_, fun s hrst => ⟨s.resetStep, step_of_rst hrst, rfl, rfl, fun ts => ?_⟩⟩
  · obtain ⟨hcq, hheld⟩ := h.step_port hrst hstep
    obtain ⟨-, -, hword⟩ := id h
    refine ⟨⟨h.step_decSt hrst hstep, hheld, hcq ▸ hword⟩, hcq, ?_⟩
    rintro ⟨ts, hn | hn⟩
    · exact (step_enc_freePort hrst hn).trans (congrArg _ hstep)
    · exact (step_link_freePort hrst hn).trans (congrArg _ hstep)
  · exact step_withdraw rfl rfl

end Sys2Proof.Machine

/-! PROOFS. Decode after encode (R45 to R49), the response rows of `DEC.END` (log 6), the frames that `Classify` answers
`Ok` (R104 to R113), and the invariant at reset (R24, R25). -/

namespace Sys2Proof.Machine

/-- `DEC.ARM` finds its expected function again in the low byte of `arg` (R45, R46). -/
theorem setWidth_extractLsb'_low (b : Byte) : (b.setWidth 16).extractLsb' 0 8 = b := by
  rw [← BitVec.setWidth_eq_extractLsb' (by decide), BitVec.setWidth_setWidth_of_le b (by decide), BitVec.setWidth_eq]

/-- An instruction is read back from its own encoding: a command by its code, a frame row by its function byte. -/
theorem decode_encode {i : Instr} (h : i.wellFormed = true) : decode (encode i) = .ok i := by
  cases i with
  | encRh => simp [encode, decode_encRh]
  | encWs => simp [encode, decode_encWs]
  | encWm => simp [encode, decode_encWm]
  | encId => simp [encode, decode_encId]
  | decArm => simp [encode, decode_decArm, setWidth_extractLsb'_low]
  | decEnd => simp [encode, decode_decEnd]
  | vbufWr => simp [encode, decode_vbufWr]
  | cmdRsv => simp [encode, decode_cmdRsv]
  | reqRh => exact decode_request_eq_ok (op := .rh).mpr rfl
  | reqWs => exact decode_request_eq_ok (op := .ws).mpr rfl
  | reqWm => exact decode_request_eq_ok (op := .wm).mpr rfl
  | reqId => exact decode_request_eq_ok (op := .id).mpr rfl
  | rspRh => exact decode_response_eq_ok (op := .rh).mpr rfl
  | rspWs => exact decode_response_eq_ok (op := .ws).mpr rfl
  | rspWm => exact decode_response_eq_ok (op := .wm).mpr rfl
  | rspId => exact decode_response_eq_ok (op := .id).mpr rfl
  | rspExc fn => exact decode_response_eq_exc.mpr h

/-- Settles O2, row by row. -/
theorem decodeOfEncode : Obligations.DecodeOfEncode := fun _ => decode_encode

/-- Settles O1: the code of each command word, the row of the request byte, bit 7 of the response byte; the fields are
computed. -/
theorem specWordsDecode : Obligations.SpecWordsDecode :=
  ⟨decode_encRh rfl, decode_encWs rfl, decode_encWm rfl, decode_encId rfl, decode_decArm rfl, decode_decEnd rfl,
    decode_vbufWr rfl, decode_cmdRsv rfl, decode_request_eq_ok (op := .wm).mpr rfl, decode_response_eq_exc.mpr rfl⟩

/-- Settles O31: the verdict of the row's layout is that of `Classify`. -/
theorem responseRowsAreDecEnd : Obligations.ResponseRowsAreDecEnd := fun _ _ => exec_of_parserSelect

/-- `Classify` answers `Ok` exactly where every stage passes (R105 to R113). -/
theorem classify_eq_ok_iff {r : List Byte} {ovf : Bool} {es ef : Byte} : classify r ovf es ef = (.ok, 0#8) ↔
    ovf = false ∧ 4 ≤ r.length ∧ crcGood r = true ∧ rxByte r 0 = es ∧ rxByte r 1 = ef ∧ FitsLayout r ef := by
  constructor
  · intro h
    have hcase := classifyCase r ovf es ef
    rw [h] at hcase
    cases hcase with
    | ok hn hc hs hf hfit => exact ⟨rfl, hn, hc, hs, hf, hfit⟩
  · rintro ⟨rfl, hn, hc, hs, hf, hfit⟩
    exact classify_of_fits hn hc hs hf hfit

/-- `FitsLayout` with the two write functions apart and the function bytes as numbers (R5). -/
theorem fitsLayout_iff {r : List Byte} {ef : Byte} : FitsLayout r ef ↔
    (ef = 0x03#8 ∧ (rxByte r 2).toNat % 2 = 0 ∧ 2 ≤ (rxByte r 2).toNat ∧ (rxByte r 2).toNat ≤ 250
        ∧ r.length = 5 + (rxByte r 2).toNat)
      ∨ (ef = 0x06#8 ∧ r.length = 8) ∨ (ef = 0x10#8 ∧ r.length = 8)
      ∨ (ef = 0x11#8 ∧ r.length = 5 + (rxByte r 2).toNat) := by
  rw [FitsLayout, or_and_right, or_assoc]
  rfl

/-- Settles O33: of the ways through the stages of `Classify`, one ends in `Ok`. -/
theorem okIffWellFormedResponse : Obligations.OkIffWellFormedResponse := by
  intro r ovf es ef
  rw [classify_eq_ok_iff, fitsLayout_iff]

/-- Settles O45: both units are `IDLE`, and nothing is written. -/
theorem invAtReset : Obligations.InvAtReset := .of_reset rfl rfl (by simp [SameParser])

end Sys2Proof.Machine
